-- ==== Sys2Proof/Word.lean ====
section
/-! DEFINITION. The widths of HFC (spec/00_scope.md R6, R9, R10). -/

namespace Sys2Proof

/-- An instruction word: WORD_BITS = 32 (R6, R70). -/
abbrev Word := BitVec 32

/-- A register number: REG_BITS = 5, unsigned (R6, R20). HFC holds no register value. -/
abbrev RegNum := BitVec 5

/-- An opcode, and a funct value: OPC_BITS = 6 (R6). -/
abbrev Opcode := BitVec 6

end Sys2Proof
end

