-- ==== Sys2Proof/Syntax.lean ====
section
/-! DEFINITION. The instructions of HFC: one constructor per row of spec/opcode_table.json, 64 instruction words (by opcode,
spec/30_encoding.md R73) and 8 commands (R77); and the two shapes in which HFC receives them. -/

namespace Sys2Proof

/-- The rows of the opcode table. A word carries every bit outside its opcode (R71): `rs` [25:21], `rt` [20:16], and for
opcode 0 the rd field [15:11], the unnamed bits [10:6] and `funct` [5:0], for every other opcode the low half [15:0]. -/
inductive Instr where
  | rOp00 (rs rt rd : RegNum) (unnamed : BitVec 5) (funct : BitVec 6)
  | inOp01 (rs rt : RegNum) (low : BitVec 16)
  | jOp02 (rs rt : RegNum) (low : BitVec 16)
  | jlOp03 (rs rt : RegNum) (low : BitVec 16)
  | inOp04 (rs rt : RegNum) (low : BitVec 16)
  | inOp05 (rs rt : RegNum) (low : BitVec 16)
  | inOp06 (rs rt : RegNum) (low : BitVec 16)
  | inOp07 (rs rt : RegNum) (low : BitVec 16)
  | iaOp08 (rs rt : RegNum) (low : BitVec 16)
  | iaOp09 (rs rt : RegNum) (low : BitVec 16)
  | iaOp10 (rs rt : RegNum) (low : BitVec 16)
  | iaOp11 (rs rt : RegNum) (low : BitVec 16)
  | iaOp12 (rs rt : RegNum) (low : BitVec 16)
  | iaOp13 (rs rt : RegNum) (low : BitVec 16)
  | iaOp14 (rs rt : RegNum) (low : BitVec 16)
  | iaOp15 (rs rt : RegNum) (low : BitVec 16)
  | inOp16 (rs rt : RegNum) (low : BitVec 16)
  | inOp17 (rs rt : RegNum) (low : BitVec 16)
  | inOp18 (rs rt : RegNum) (low : BitVec 16)
  | inOp19 (rs rt : RegNum) (low : BitVec 16)
  | inOp20 (rs rt : RegNum) (low : BitVec 16)
  | inOp21 (rs rt : RegNum) (low : BitVec 16)
  | inOp22 (rs rt : RegNum) (low : BitVec 16)
  | inOp23 (rs rt : RegNum) (low : BitVec 16)
  | inOp24 (rs rt : RegNum) (low : BitVec 16)
  | inOp25 (rs rt : RegNum) (low : BitVec 16)
  | inOp26 (rs rt : RegNum) (low : BitVec 16)
  | inOp27 (rs rt : RegNum) (low : BitVec 16)
  | inOp28 (rs rt : RegNum) (low : BitVec 16)
  | inOp29 (rs rt : RegNum) (low : BitVec 16)
  | inOp30 (rs rt : RegNum) (low : BitVec 16)
  | inOp31 (rs rt : RegNum) (low : BitVec 16)
  | ilOp32 (rs rt : RegNum) (low : BitVec 16)
  | ilOp33 (rs rt : RegNum) (low : BitVec 16)
  | ilOp34 (rs rt : RegNum) (low : BitVec 16)
  | ilOp35 (rs rt : RegNum) (low : BitVec 16)
  | ilOp36 (rs rt : RegNum) (low : BitVec 16)
  | ilOp37 (rs rt : RegNum) (low : BitVec 16)
  | inOp38 (rs rt : RegNum) (low : BitVec 16)
  | inOp39 (rs rt : RegNum) (low : BitVec 16)
  | inOp40 (rs rt : RegNum) (low : BitVec 16)
  | inOp41 (rs rt : RegNum) (low : BitVec 16)
  | inOp42 (rs rt : RegNum) (low : BitVec 16)
  | inOp43 (rs rt : RegNum) (low : BitVec 16)
  | inOp44 (rs rt : RegNum) (low : BitVec 16)
  | inOp45 (rs rt : RegNum) (low : BitVec 16)
  | inOp46 (rs rt : RegNum) (low : BitVec 16)
  | inOp47 (rs rt : RegNum) (low : BitVec 16)
  | inOp48 (rs rt : RegNum) (low : BitVec 16)
  | inOp49 (rs rt : RegNum) (low : BitVec 16)
  | inOp50 (rs rt : RegNum) (low : BitVec 16)
  | inOp51 (rs rt : RegNum) (low : BitVec 16)
  | inOp52 (rs rt : RegNum) (low : BitVec 16)
  | inOp53 (rs rt : RegNum) (low : BitVec 16)
  | inOp54 (rs rt : RegNum) (low : BitVec 16)
  | inOp55 (rs rt : RegNum) (low : BitVec 16)
  | inOp56 (rs rt : RegNum) (low : BitVec 16)
  | inOp57 (rs rt : RegNum) (low : BitVec 16)
  | inOp58 (rs rt : RegNum) (low : BitVec 16)
  | inOp59 (rs rt : RegNum) (low : BitVec 16)
  | inOp60 (rs rt : RegNum) (low : BitVec 16)
  | inOp61 (rs rt : RegNum) (low : BitVec 16)
  | inOp62 (rs rt : RegNum) (low : BitVec 16)
  | inOp63 (rs rt : RegNum) (low : BitVec 16)
  | nop
  | start (words : List Word)
  | reset
  | pause
  | resume
  | setfwd (en : Bool)
  | tick
  | reserved7
deriving DecidableEq, Repr

/-- One presentation of the command port (R77): the 3-bit code, the one-bit argument of SETFWD and the list argument of
START (`n` is the list's length). A command reads the lanes that are its arguments and no other. -/
structure PortCommand where
  cmd   : BitVec 3
  en    : Bool
  words : List Word
deriving DecidableEq, Repr

/-- The two input encodings of HFC (spec/30_encoding.md): the instruction word and the command. -/
inductive Encoding where
  | word (w : Word)
  | command (p : PortCommand)
deriving DecidableEq, Repr

end Sys2Proof
end

