-- ==== Sys2Proof/Decode.lean ====
section
/-! DEFINITION. The decoder of the two input encodings, total and without a rejection: "All 2^32 words are legal" and "No word
traps" (spec/30_encoding.md R76), and code 7 is a command that acts as NOP (R78). After it, the encoder. -/

namespace Sys2Proof

/-- opcode, bits [31:26] (R71). -/
def opcodeOf (w : Word) : Opcode := w.extractLsb' 26 6

/-- rs, bits [25:21] (R71). -/
def rsOf (w : Word) : RegNum := w.extractLsb' 21 5

/-- rt, bits [20:16] (R71). -/
def rtOf (w : Word) : RegNum := w.extractLsb' 16 5

/-- The rd field, bits [15:11] (R71). -/
def rdFieldOf (w : Word) : RegNum := w.extractLsb' 11 5

/-- The bits [10:6], which no rule reads (R71). -/
def unnamedOf (w : Word) : BitVec 5 := w.extractLsb' 6 5

/-- funct, bits [5:0] (R71). -/
def functOf (w : Word) : BitVec 6 := w.extractLsb' 0 6

/-- The low half, bits [15:0], which no rule reads for a word of kind I or J (R71, R75). -/
def lowOf (w : Word) : BitVec 16 := w.extractLsb' 0 16

/-- The instruction a word encodes: its opcode selects the row (R73). -/
def decodeWord (w : Word) : Instr :=
  match (opcodeOf w).toNat with
  | 0 => .rOp00 (rsOf w) (rtOf w) (rdFieldOf w) (unnamedOf w) (functOf w)
  | 1 => .inOp01 (rsOf w) (rtOf w) (lowOf w)
  | 2 => .jOp02 (rsOf w) (rtOf w) (lowOf w)
  | 3 => .jlOp03 (rsOf w) (rtOf w) (lowOf w)
  | 4 => .inOp04 (rsOf w) (rtOf w) (lowOf w)
  | 5 => .inOp05 (rsOf w) (rtOf w) (lowOf w)
  | 6 => .inOp06 (rsOf w) (rtOf w) (lowOf w)
  | 7 => .inOp07 (rsOf w) (rtOf w) (lowOf w)
  | 8 => .iaOp08 (rsOf w) (rtOf w) (lowOf w)
  | 9 => .iaOp09 (rsOf w) (rtOf w) (lowOf w)
  | 10 => .iaOp10 (rsOf w) (rtOf w) (lowOf w)
  | 11 => .iaOp11 (rsOf w) (rtOf w) (lowOf w)
  | 12 => .iaOp12 (rsOf w) (rtOf w) (lowOf w)
  | 13 => .iaOp13 (rsOf w) (rtOf w) (lowOf w)
  | 14 => .iaOp14 (rsOf w) (rtOf w) (lowOf w)
  | 15 => .iaOp15 (rsOf w) (rtOf w) (lowOf w)
  | 16 => .inOp16 (rsOf w) (rtOf w) (lowOf w)
  | 17 => .inOp17 (rsOf w) (rtOf w) (lowOf w)
  | 18 => .inOp18 (rsOf w) (rtOf w) (lowOf w)
  | 19 => .inOp19 (rsOf w) (rtOf w) (lowOf w)
  | 20 => .inOp20 (rsOf w) (rtOf w) (lowOf w)
  | 21 => .inOp21 (rsOf w) (rtOf w) (lowOf w)
  | 22 => .inOp22 (rsOf w) (rtOf w) (lowOf w)
  | 23 => .inOp23 (rsOf w) (rtOf w) (lowOf w)
  | 24 => .inOp24 (rsOf w) (rtOf w) (lowOf w)
  | 25 => .inOp25 (rsOf w) (rtOf w) (lowOf w)
  | 26 => .inOp26 (rsOf w) (rtOf w) (lowOf w)
  | 27 => .inOp27 (rsOf w) (rtOf w) (lowOf w)
  | 28 => .inOp28 (rsOf w) (rtOf w) (lowOf w)
  | 29 => .inOp29 (rsOf w) (rtOf w) (lowOf w)
  | 30 => .inOp30 (rsOf w) (rtOf w) (lowOf w)
  | 31 => .inOp31 (rsOf w) (rtOf w) (lowOf w)
  | 32 => .ilOp32 (rsOf w) (rtOf w) (lowOf w)
  | 33 => .ilOp33 (rsOf w) (rtOf w) (lowOf w)
  | 34 => .ilOp34 (rsOf w) (rtOf w) (lowOf w)
  | 35 => .ilOp35 (rsOf w) (rtOf w) (lowOf w)
  | 36 => .ilOp36 (rsOf w) (rtOf w) (lowOf w)
  | 37 => .ilOp37 (rsOf w) (rtOf w) (lowOf w)
  | 38 => .inOp38 (rsOf w) (rtOf w) (lowOf w)
  | 39 => .inOp39 (rsOf w) (rtOf w) (lowOf w)
  | 40 => .inOp40 (rsOf w) (rtOf w) (lowOf w)
  | 41 => .inOp41 (rsOf w) (rtOf w) (lowOf w)
  | 42 => .inOp42 (rsOf w) (rtOf w) (lowOf w)
  | 43 => .inOp43 (rsOf w) (rtOf w) (lowOf w)
  | 44 => .inOp44 (rsOf w) (rtOf w) (lowOf w)
  | 45 => .inOp45 (rsOf w) (rtOf w) (lowOf w)
  | 46 => .inOp46 (rsOf w) (rtOf w) (lowOf w)
  | 47 => .inOp47 (rsOf w) (rtOf w) (lowOf w)
  | 48 => .inOp48 (rsOf w) (rtOf w) (lowOf w)
  | 49 => .inOp49 (rsOf w) (rtOf w) (lowOf w)
  | 50 => .inOp50 (rsOf w) (rtOf w) (lowOf w)
  | 51 => .inOp51 (rsOf w) (rtOf w) (lowOf w)
  | 52 => .inOp52 (rsOf w) (rtOf w) (lowOf w)
  | 53 => .inOp53 (rsOf w) (rtOf w) (lowOf w)
  | 54 => .inOp54 (rsOf w) (rtOf w) (lowOf w)
  | 55 => .inOp55 (rsOf w) (rtOf w) (lowOf w)
  | 56 => .inOp56 (rsOf w) (rtOf w) (lowOf w)
  | 57 => .inOp57 (rsOf w) (rtOf w) (lowOf w)
  | 58 => .inOp58 (rsOf w) (rtOf w) (lowOf w)
  | 59 => .inOp59 (rsOf w) (rtOf w) (lowOf w)
  | 60 => .inOp60 (rsOf w) (rtOf w) (lowOf w)
  | 61 => .inOp61 (rsOf w) (rtOf w) (lowOf w)
  | 62 => .inOp62 (rsOf w) (rtOf w) (lowOf w)
  | _ => .inOp63 (rsOf w) (rtOf w) (lowOf w)

/-- The command a port presentation encodes (R77). -/
def decodeCommand (p : PortCommand) : Instr :=
  match p.cmd.toNat with
  | 0 => .nop
  | 1 => .start p.words
  | 2 => .reset
  | 3 => .pause
  | 4 => .resume
  | 5 => .setfwd p.en
  | 6 => .tick
  | _ => .reserved7

/-- The whole decoder. -/
def decode : Encoding → Instr
  | .word w => decodeWord w
  | .command p => decodeCommand p

/-- The word with opcode 0 and the given fields (R71). -/
def packR (rs rt rd : RegNum) (unnamed : BitVec 5) (funct : BitVec 6) : Word :=
  0#6 ++ rs ++ rt ++ rd ++ unnamed ++ funct

/-- The word with the given opcode, rs, rt and low half (R71). -/
def packI (op : Opcode) (rs rt : RegNum) (low : BitVec 16) : Word :=
  op ++ rs ++ rt ++ low

/-- The port presentation of a command that has no argument (R77). -/
def plainCommand (cmd : BitVec 3) : PortCommand := { cmd := cmd, en := false, words := [] }

/-- The encoding of an instruction (R71, R73, R77). -/
def encode : Instr → Encoding
  | .rOp00 rs rt rd unnamed funct => .word (packR rs rt rd unnamed funct)
  | .inOp01 rs rt low => .word (packI 1#6 rs rt low)
  | .jOp02 rs rt low => .word (packI 2#6 rs rt low)
  | .jlOp03 rs rt low => .word (packI 3#6 rs rt low)
  | .inOp04 rs rt low => .word (packI 4#6 rs rt low)
  | .inOp05 rs rt low => .word (packI 5#6 rs rt low)
  | .inOp06 rs rt low => .word (packI 6#6 rs rt low)
  | .inOp07 rs rt low => .word (packI 7#6 rs rt low)
  | .iaOp08 rs rt low => .word (packI 8#6 rs rt low)
  | .iaOp09 rs rt low => .word (packI 9#6 rs rt low)
  | .iaOp10 rs rt low => .word (packI 10#6 rs rt low)
  | .iaOp11 rs rt low => .word (packI 11#6 rs rt low)
  | .iaOp12 rs rt low => .word (packI 12#6 rs rt low)
  | .iaOp13 rs rt low => .word (packI 13#6 rs rt low)
  | .iaOp14 rs rt low => .word (packI 14#6 rs rt low)
  | .iaOp15 rs rt low => .word (packI 15#6 rs rt low)
  | .inOp16 rs rt low => .word (packI 16#6 rs rt low)
  | .inOp17 rs rt low => .word (packI 17#6 rs rt low)
  | .inOp18 rs rt low => .word (packI 18#6 rs rt low)
  | .inOp19 rs rt low => .word (packI 19#6 rs rt low)
  | .inOp20 rs rt low => .word (packI 20#6 rs rt low)
  | .inOp21 rs rt low => .word (packI 21#6 rs rt low)
  | .inOp22 rs rt low => .word (packI 22#6 rs rt low)
  | .inOp23 rs rt low => .word (packI 23#6 rs rt low)
  | .inOp24 rs rt low => .word (packI 24#6 rs rt low)
  | .inOp25 rs rt low => .word (packI 25#6 rs rt low)
  | .inOp26 rs rt low => .word (packI 26#6 rs rt low)
  | .inOp27 rs rt low => .word (packI 27#6 rs rt low)
  | .inOp28 rs rt low => .word (packI 28#6 rs rt low)
  | .inOp29 rs rt low => .word (packI 29#6 rs rt low)
  | .inOp30 rs rt low => .word (packI 30#6 rs rt low)
  | .inOp31 rs rt low => .word (packI 31#6 rs rt low)
  | .ilOp32 rs rt low => .word (packI 32#6 rs rt low)
  | .ilOp33 rs rt low => .word (packI 33#6 rs rt low)
  | .ilOp34 rs rt low => .word (packI 34#6 rs rt low)
  | .ilOp35 rs rt low => .word (packI 35#6 rs rt low)
  | .ilOp36 rs rt low => .word (packI 36#6 rs rt low)
  | .ilOp37 rs rt low => .word (packI 37#6 rs rt low)
  | .inOp38 rs rt low => .word (packI 38#6 rs rt low)
  | .inOp39 rs rt low => .word (packI 39#6 rs rt low)
  | .inOp40 rs rt low => .word (packI 40#6 rs rt low)
  | .inOp41 rs rt low => .word (packI 41#6 rs rt low)
  | .inOp42 rs rt low => .word (packI 42#6 rs rt low)
  | .inOp43 rs rt low => .word (packI 43#6 rs rt low)
  | .inOp44 rs rt low => .word (packI 44#6 rs rt low)
  | .inOp45 rs rt low => .word (packI 45#6 rs rt low)
  | .inOp46 rs rt low => .word (packI 46#6 rs rt low)
  | .inOp47 rs rt low => .word (packI 47#6 rs rt low)
  | .inOp48 rs rt low => .word (packI 48#6 rs rt low)
  | .inOp49 rs rt low => .word (packI 49#6 rs rt low)
  | .inOp50 rs rt low => .word (packI 50#6 rs rt low)
  | .inOp51 rs rt low => .word (packI 51#6 rs rt low)
  | .inOp52 rs rt low => .word (packI 52#6 rs rt low)
  | .inOp53 rs rt low => .word (packI 53#6 rs rt low)
  | .inOp54 rs rt low => .word (packI 54#6 rs rt low)
  | .inOp55 rs rt low => .word (packI 55#6 rs rt low)
  | .inOp56 rs rt low => .word (packI 56#6 rs rt low)
  | .inOp57 rs rt low => .word (packI 57#6 rs rt low)
  | .inOp58 rs rt low => .word (packI 58#6 rs rt low)
  | .inOp59 rs rt low => .word (packI 59#6 rs rt low)
  | .inOp60 rs rt low => .word (packI 60#6 rs rt low)
  | .inOp61 rs rt low => .word (packI 61#6 rs rt low)
  | .inOp62 rs rt low => .word (packI 62#6 rs rt low)
  | .inOp63 rs rt low => .word (packI 63#6 rs rt low)
  | .nop => .command (plainCommand 0#3)
  | .start words => .command { cmd := 1#3, en := false, words := words }
  | .reset => .command (plainCommand 2#3)
  | .pause => .command (plainCommand 3#3)
  | .resume => .command (plainCommand 4#3)
  | .setfwd en => .command { cmd := 5#3, en := en, words := [] }
  | .tick => .command (plainCommand 6#3)
  | .reserved7 => .command (plainCommand 7#3)

/-- What the bits of an opcode-table row stand for: a row of at most 8 bits is a command code whose argument lanes are idle,
a longer one, of at most 32 bits, an instruction word (log entry 16). -/
def tableEncoding (nbits w : Nat) : Option Encoding :=
  if nbits ≤ 8 then some (.command (plainCommand (BitVec.ofNat 3 w)))
  else if nbits ≤ 32 then some (.word (BitVec.ofNat 32 w))
  else none

/-- The instruction the decoder reads from an opcode-table row's bits. -/
def decodeTableWord (nbits w : Nat) : Option Instr :=
  (tableEncoding nbits w).map decode

/-- What the host presents at the command port to have an encoding run: a command is presented as it is; a word reaches HFC
only as an element of a START's list (R51, R100), so it is presented as the START of that one word (log entry 2). -/
def presentation : Encoding → PortCommand
  | .word w => { cmd := 1#3, en := false, words := [w] }
  | .command p => p

end Sys2Proof
end

