-- ==== Sys2Proof/Config.lean ====
section
/-! DEFINITION. The fixed parameters of HFC (spec/00_scope.md R6) and its open parameters (R7). -/

namespace Sys2Proof.Config

/-- STAGE_COUNT: "stageCount (fixed at 5)" (R6). -/
def stageCount : Nat := 5

/-- STALL_BASE: the stall for a match at distance d is STALL_BASE - d (R6, R126). -/
def stallBase : Nat := 3

/-- LINK_REG: the destination of opcode 3 (R6, R103). -/
def linkReg : RegNum := 31#5

/-- OPC_R (R6). -/
def opcR : Opcode := 0#6

/-- OPC_J (R6). -/
def opcJ : Opcode := 2#6

/-- OPC_JL (R6). -/
def opcJL : Opcode := 3#6

/-- IMM_LO (R6); the interval is closed (the spec's decision D22, log entry 15). -/
def immLo : Nat := 8

/-- IMM_HI (R6). -/
def immHi : Nat := 15

/-- LOAD_LO (R6). -/
def loadLo : Nat := 32

/-- LOAD_HI (R6). -/
def loadHi : Nat := 37

/-- FWD_POR, the power-on value of FWD_CFG: an open parameter (R7, D6; log entry 4). Nothing in Lean can tell its value. -/
opaque fwdPor : Bool

/-- FUNCT_NONR, the value of DEC.funct of a word of kind I or J: an open parameter (R7, R111, D18; log entry 5). -/
opaque functNonR : Word → BitVec 6

end Sys2Proof.Config

namespace Sys2Proof

/-- NMAX, the largest instruction count a START may carry: "a natural number at least 1", or unbounded (R7; D3).
`upTo p` is NMAX = p + 1, so that NMAX = 0 cannot be written. -/
inductive Capacity where
  | unbounded
  | upTo (nmaxPred : Nat)
deriving DecidableEq, Repr

/-- The precondition of an accepted START: 1 <= n <= NMAX (spec/44_commands.md R182). -/
def Capacity.admits : Capacity → Nat → Bool
  | .unbounded, n => decide (1 ≤ n)
  | .upTo p, n => decide (1 ≤ n ∧ n ≤ p + 1)

end Sys2Proof
end

