-- ==== Sys2Proof/Machine/State.lean ====
section
/-! DEFINITION. The state of HFC (spec/10_state.md): every register and table of R22 to R32, and three fields of the model's
own (`nmax`, `port`, `reject`), as INVENTORY.md lists them. -/

namespace Sys2Proof.Machine

/-- The format of a word (R72). -/
inductive Kind where
  | R | I | J
deriving DecidableEq, Repr

/-- A source operand of a consumer: its rs field or its rt field (R79, R124). -/
inductive Operand where
  | RS | RT
deriving DecidableEq, Repr

/-- The kind of a hazard record (R30). -/
inductive HazardKind where
  | NONE | RAW | WAW
deriving DecidableEq, Repr

/-- A pipeline stage, or NONE, "not in pipeline" (R28). -/
inductive Stage where
  | IF | ID | EX | MEM | WB | NONE
deriving DecidableEq, Repr

/-- The document's DecodedInstruction (R29). `rd` is the effective destination; 0 means "writes no register" (R110). -/
structure Decoded where
  opcode : Opcode
  rs     : RegNum
  rt     : RegNum
  rd     : RegNum
  funct  : BitVec 6
  kind   : Kind
deriving DecidableEq, Repr

/-- The document's HazardRecord (R30). -/
structure HazardRecord where
  kind        : HazardKind
  forwardable : Bool
  stallCycles : Nat
  gdist       : Nat
  gopnd       : Operand
  greg        : RegNum
deriving DecidableEq, Repr

/-- The document's ForwardingEdge (R31, R81); `operand` is the spec's added field. -/
structure Edge where
  fromIndex     : Nat
  toIndex       : Nat
  fromStage     : Stage
  toStage       : Stage
  registerLabel : RegNum
  operand       : Operand
deriving DecidableEq, Repr

/-- The state of HFC. Counts are natural numbers (R10). -/
structure State where
  /-- FWD_CFG (R23). -/
  fwdCfg     : Bool
  /-- N (R24). -/
  n          : Nat
  /-- IW (R24). -/
  iw         : List Word
  /-- FWD_RUN (R25). -/
  fwdRun     : Bool
  /-- CYCLE (R26). -/
  cycle      : Nat
  /-- STALL_REM (R27). -/
  stallRem   : Nat
  /-- RUNNING (R22). -/
  running    : Bool
  /-- FINISHED (R22). -/
  finished   : Bool
  /-- STAGE (R28). -/
  stage      : List Stage
  /-- DEC (R29). -/
  dec        : List Decoded
  /-- HZ (R30). -/
  hz         : List HazardRecord
  /-- EDGES (R31). -/
  edges      : List (List Edge)
  /-- ST (R32). -/
  st         : List Nat
  /-- TOTAL_STALL (R32). -/
  totalStall : Nat
  /-- COMPLETION (R32). -/
  completion : Nat
  /-- The model's own: the parameter NMAX of this machine (R7), written by no step (log entry 3). -/
  nmax       : Capacity
  /-- The model's own: the commands the host has still to present, oldest first (R180, log entry 1). -/
  port       : List PortCommand
  /-- The model's own: the output `reject` of the last step (R180, R183, log entry 6). -/
  reject     : Bool
deriving DecidableEq, Repr

/-- HFC has no fault: "there is no fault state. A model's step function has no fault outcome" (R200), so no constructor. -/
inductive Fault where
deriving DecidableEq, Repr

/-- The reasons a step can be refused. A START that HFC rejects is none of them: it is a next state with `reject` set (R201). -/
inductive Refusal where
  /-- Raised by an arm of `exec` whose instruction has no meaning yet; no arm of this model raises it. Safe: the run stops. -/
  | notModelled (mnemonic : String)
deriving DecidableEq, Repr

/-- The outcome of one step of this machine. -/
abbrev StepOutcome := Host.Outcome State Fault Refusal

/-- The state after power-on (R36, R220): not started, every table empty, FWD_CFG = FWD_POR. `nmax` is unbounded, as D3 allows
a model to take it (log entry 3). -/
def State.reset : State where
  fwdCfg     := Config.fwdPor
  n          := 0
  iw         := []
  fwdRun     := false
  cycle      := 0
  stallRem   := 0
  running    := false
  finished   := false
  stage      := []
  dec        := []
  hz         := []
  edges      := []
  st         := []
  totalStall := 0
  completion := 0
  nmax       := .unbounded
  port       := []
  reject     := false

end Sys2Proof.Machine
end

