-- ==== Sys2Proof/Machine/Operands.lean ====
section
/-! DEFINITION. What a word contributes to DEC: the common extraction and the effective destination over a raw word
(spec/40_decode.md R100, spec/30_encoding.md R72 to R74), and the record of each of the six classes over its fields
(R101 to R106). -/

namespace Sys2Proof.Machine

/-- The kind selected by the opcode (R72). -/
def kindOf (op : Opcode) : Kind :=
  if op = Config.opcR then .R
  else if op = Config.opcJ ∨ op = Config.opcJL then .J
  else .I

/-- The opcode is in the immediate-arithmetic range [8,15] (R6, R104). -/
def inImmRange (op : Opcode) : Bool := decide (Config.immLo ≤ op.toNat ∧ op.toNat ≤ Config.immHi)

/-- The opcode is in the load range [32,37] (R6, R105). -/
def inLoadRange (op : Opcode) : Bool := decide (Config.loadLo ≤ op.toNat ∧ op.toNat ≤ Config.loadHi)

/-- The effective destination of a word (R72, R74). -/
def effectiveDest (w : Word) : RegNum :=
  match kindOf (opcodeOf w) with
  | .R => rdFieldOf w
  | .J => if opcodeOf w = Config.opcJL then Config.linkReg else 0#5
  | .I => if inImmRange (opcodeOf w) || inLoadRange (opcodeOf w) then rtOf w else 0#5

/-- DEC.funct: bits [5:0] for kind R, the open parameter FUNCT_NONR otherwise (R100, R111). -/
def functField (w : Word) : BitVec 6 :=
  match kindOf (opcodeOf w) with
  | .R => functOf w
  | .I => Config.functNonR w
  | .J => Config.functNonR w

/-- `decode(w)` of the document: the DecodedInstruction of a word (R100 to R106). -/
def decodeRecord (w : Word) : Decoded where
  opcode := opcodeOf w
  rs     := rsOf w
  rt     := rtOf w
  rd     := effectiveDest w
  funct  := functField w
  kind   := kindOf (opcodeOf w)

/-- Class R (R101): the destination is the rd field. -/
def recordR (rs rt rd : RegNum) (_unnamed : BitVec 5) (funct : BitVec 6) : Decoded :=
  { opcode := 0#6, rs := rs, rt := rt, rd := rd, funct := funct, kind := .R }

/-- Class J (R102): kind J, destination 0. -/
def recordJ (rs rt : RegNum) (low : BitVec 16) : Decoded :=
  { opcode := 2#6, rs := rs, rt := rt, rd := 0#5, funct := Config.functNonR (packI 2#6 rs rt low), kind := .J }

/-- Class JL (R103): kind J, destination 31, the link register. -/
def recordJL (rs rt : RegNum) (low : BitVec 16) : Decoded :=
  { opcode := 3#6, rs := rs, rt := rt, rd := 31#5, funct := Config.functNonR (packI 3#6 rs rt low), kind := .J }

/-- Class IA (R104): kind I, the destination is the rt field. -/
def recordIA (op : Opcode) (rs rt : RegNum) (low : BitVec 16) : Decoded :=
  { opcode := op, rs := rs, rt := rt, rd := rt, funct := Config.functNonR (packI op rs rt low), kind := .I }

/-- Class IL (R105): kind I, the destination is the rt field. -/
def recordIL (op : Opcode) (rs rt : RegNum) (low : BitVec 16) : Decoded :=
  { opcode := op, rs := rs, rt := rt, rd := rt, funct := Config.functNonR (packI op rs rt low), kind := .I }

/-- Class IN (R106): kind I, destination 0. -/
def recordIN (op : Opcode) (rs rt : RegNum) (low : BitVec 16) : Decoded :=
  { opcode := op, rs := rs, rt := rt, rd := 0#5, funct := Config.functNonR (packI op rs rt low), kind := .I }

/-- A word's record becomes the next entry of DEC; "Decoding sets no flag, raises nothing and has no side effect" (R107). -/
def contribute (d : Decoded) (s : State) : State := { s with dec := s.dec ++ [d] }

end Sys2Proof.Machine
end

