-- ==== Sys2Proof/Machine/Ops.lean ====
section
/-! DEFINITION. The shared operations of HFC: the RAW/WAW classifier (spec/41_hazard_classifier.md), the forwarding edges
(spec/42_forwarding_selector.md), the stage map and the stall trigger (spec/43_stall_sequencer.md), what an accepted and a
rejected START do (spec/44_commands.md R182, R183), and taking a command from the port (R180).

HFC takes no exception and returns from none (spec/60_exceptions.md R200, R205): there is no such operation here. The one
refusal of the hardware is `rejectStart`, a next state. -/

namespace Sys2Proof.Machine

/-! ### The classifier -/

/-- An element (j, d, operand) of the match list M(i) (R124). -/
structure Match where
  j       : Nat
  d       : Nat
  operand : Operand
deriving DecidableEq, Repr

/-- The look-back window of consumer i, in scan order: i - 2, then i - 1, those that exist (R122; order: D13, log entry 10). -/
def window (i : Nat) : List Nat :=
  (if 2 ≤ i then [i - 2] else []) ++ (if 1 ≤ i then [i - 1] else [])

/-- DEC[j].rd, and 0 where DEC has no entry j (no rule reads one; log entry 17). -/
def rdAt (dec : List Decoded) (j : Nat) : RegNum :=
  match dec[j]? with
  | some p => p.rd
  | none => 0#5

/-- The matches of consumer `c`, index i, against the producer at j: none if it writes no register (R123), else RS, then RT
(R124). -/
def matchesAt (dec : List Decoded) (c : Decoded) (i j : Nat) : List Match :=
  if rdAt dec j = 0#5 then []
  else
    (if c.rs = rdAt dec j then [{ j := j, d := i - j, operand := .RS }] else []) ++
    (if c.rt = rdAt dec j then [{ j := j, d := i - j, operand := .RT }] else [])

/-- Index i is examined as a consumer: it exists, is not index 0 and is not of kind J (R121). -/
def consumerAt (dec : List Decoded) (i : Nat) : Option Decoded :=
  match dec[i]? with
  | some c => if i = 0 ∨ c.kind = .J then none else some c
  | none => none

/-- The match list M(i) (R124); empty for an index that is not examined (R121, R132). -/
def matchList (dec : List Decoded) (i : Nat) : List Match :=
  match consumerAt dec i with
  | some c => (window i).flatMap (matchesAt dec c i)
  | none => []

/-- need(i), the maximum of 3 - d over the matches (R125, R126). -/
def need (ms : List Match) : Nat := ms.foldl (fun m x => max m (Config.stallBase - x.d)) 0

/-- The governing match g(i): the first whose 3 - d equals need(i) (R125). -/
def governing (ms : List Match) : Option Match := ms.find? (fun x => Config.stallBase - x.d == need ms)

/-- The NONE record (R129; its `forwardable`: D11, log entry 9). -/
def noneRecord : HazardRecord :=
  { kind := .NONE, forwardable := false, stallCycles := 0, gdist := 0, gopnd := .RS, greg := 0#5 }

/-- The RAW record of governing match g (R125), with the stall count of the policy (R126, R127). -/
def rawRecord (dec : List Decoded) (fwd : Bool) (ms : List Match) (g : Match) : HazardRecord :=
  { kind := .RAW, forwardable := true, stallCycles := if fwd then 0 else need ms,
    gdist := g.d, gopnd := g.operand, greg := rdAt dec g.j }

/-- The WAW record of consumer `c`, index i, against the producer at j (R128). -/
def wawRecord (c : Decoded) (i j : Nat) : HazardRecord :=
  { kind := .WAW, forwardable := true, stallCycles := 0, gdist := i - j, gopnd := .RS, greg := c.rd }

/-- The first producer of the window that writes the consumer's nonzero destination (R128). -/
def wawProducer (dec : List Decoded) (c : Decoded) (i : Nat) : Option Nat :=
  if c.rd = 0#5 then none else (window i).find? (fun j => rdAt dec j == c.rd)

/-- The record of an examined index without a match: WAW if a producer writes its destination, else NONE (R128, R129). -/
def unmatchedRecord (dec : List Decoded) (c : Decoded) (i : Nat) : HazardRecord :=
  match wawProducer dec c i with
  | some j => wawRecord c i j
  | none => noneRecord

/-- HZ[i] (R121 to R129, R132): RAW if a match governs, else WAW, else NONE. -/
def hazardRecord (dec : List Decoded) (fwd : Bool) (i : Nat) : HazardRecord :=
  match consumerAt dec i with
  | none => noneRecord
  | some c =>
    match governing (matchList dec i) with
    | some g => rawRecord dec fwd (matchList dec i) g
    | none => unmatchedRecord dec c i

/-! ### The forwarding edges -/

/-- fromStage of an edge: EX at distance 1, MEM at distance 2 (R141). -/
def fromStageOf (d : Nat) : Stage := if d = 1 then .EX else .MEM

/-- The edge of match m of consumer i (R141). -/
def edgeOf (dec : List Decoded) (i : Nat) (m : Match) : Edge :=
  { fromIndex := m.j, toIndex := i, fromStage := fromStageOf m.d, toStage := .EX,
    registerLabel := rdAt dec m.j, operand := m.operand }

/-- EDGES[i]: with forwarding enabled one edge per match, in the order of M(i); else none (R140, R143). -/
def edgesAt (dec : List Decoded) (fwd : Bool) (i : Nat) : List Edge :=
  if fwd then (matchList dec i).map (edgeOf dec i) else []

/-! ### analyze -/

/-- HZ of a list of n instructions (R120). -/
def analyzeHazards (n : Nat) (dec : List Decoded) (fwd : Bool) : List HazardRecord :=
  (List.range n).map (hazardRecord dec fwd)

/-- EDGES of a list of n instructions (R120, R143). -/
def analyzeEdges (n : Nat) (dec : List Decoded) (fwd : Bool) : List (List Edge) :=
  (List.range n).map (edgesAt dec fwd)

/-- ST: the stall counts of the records (R130). -/
def analyzeStalls (n : Nat) (dec : List Decoded) (fwd : Bool) : List Nat :=
  (analyzeHazards n dec fwd).map HazardRecord.stallCycles

/-! ### The stage map and the trigger -/

/-- ST[k], and 0 where ST has no entry k (no rule reads one; log entry 17). -/
def stallAt (st : List Nat) (k : Nat) : Nat :=
  match st[k]? with
  | some q => q
  | none => 0

/-- precedingStalls(k), the sum of ST[m] over m < k (R158). -/
def precedingStalls (st : List Nat) (k : Nat) : Nat := (st.take k).sum

/-- stageIndex(k, c) = c - k - 1 - precedingStalls(k), an integer (R158). -/
def stageIndex (st : List Nat) (k c : Nat) : Int := (c : Int) - k - 1 - precedingStalls st k

/-- The stage a stageIndex stands for, NONE outside 0 .. 4 (R159). -/
def stageOfIndex (si : Int) : Stage :=
  if si = 0 then .IF
  else if si = 1 then .ID
  else if si = 2 then .EX
  else if si = 3 then .MEM
  else if si = 4 then .WB
  else .NONE

/-- StageMap(c) (R159). -/
def stageMap (n : Nat) (st : List Nat) (c : Nat) : List Stage :=
  (List.range n).map (fun k => stageOfIndex (stageIndex st k c))

/-- trig, the stall count of the first instruction in ID at cycle c that has one, 0 if there is none (R160). -/
def trigger (n : Nat) (st : List Nat) (c : Nat) : Nat :=
  (List.range n).foldl
    (fun trig k => if stageIndex st k c = 1 ∧ stallAt st k > 0 ∧ trig = 0 then stallAt st k else trig) 0

/-! ### START -/

/-- An accepted START: the run of `words` under the configured policy replaces everything (R182). -/
def startRun (words : List Word) (s : State) : State :=
  let n := words.length
  let dec := words.map decodeRecord
  let st := analyzeStalls n dec s.fwdCfg
  { s with
    n := n
    iw := words
    fwdRun := s.fwdCfg
    dec := dec
    hz := analyzeHazards n dec s.fwdCfg
    edges := analyzeEdges n dec s.fwdCfg
    st := st
    totalStall := st.sum
    completion := n + Config.stageCount - 1 + st.sum
    cycle := 1
    stage := stageMap n st 1
    stallRem := 0
    running := true
    finished := false
    reject := false }

/-- A rejected START: no state changes, and `reject` is 1 for this step (R183). -/
def rejectStart (s : State) : State := { s with reject := true }

/-! ### Paths of TICK -/

/-- The frozen path (R157). -/
def tickFrozen (s : State) : State :=
  { s with stallRem := s.stallRem - 1, cycle := s.cycle + 1, reject := false }

/-- The finishing path, at nextCycle > COMPLETION: the map of nextCycle, STALL_REM <- 0, CYCLE capped (R161; the map: D10, log
entry 11). R163 writes trig to STALL_REM there, which is 0 in every state a run reaches (R161: "no trigger fires"). -/
def tickFinish (s : State) : State :=
  { s with
    stage := stageMap s.n s.st (s.cycle + 1)
    stallRem := 0
    cycle := s.completion
    running := false
    finished := true
    reject := false }

/-- The ordinary path (R162). -/
def tickOrdinary (s : State) : State :=
  { s with
    stage := stageMap s.n s.st (s.cycle + 1)
    stallRem := trigger s.n s.st (s.cycle + 1)
    cycle := s.cycle + 1
    reject := false }

/-! ### Effects that change nothing but `reject` -/

/-- A command that changes no state; its step's `reject` is 0 (R181, R202). -/
def noChange (s : State) : State := { s with reject := false }

/-! ### The command port -/

/-- The command of this step and the state with it taken from the port; NOP when the host has nothing to ask (R180). -/
def takeCommand (s : State) : PortCommand × State :=
  match s.port with
  | [] => (plainCommand 0#3, s)
  | p :: rest => (p, { s with port := rest })

/-- The host presents command p next. -/
def presentNext (p : PortCommand) (s : State) : State := { s with port := p :: s.port }

end Sys2Proof.Machine
end

