-- ==== Sys2Proof/Machine/Commands.lean ====
section
/-! DEFINITION. The meanings of the eight commands (spec/44_commands.md). Each is total and ends in a next state (R13, R180). -/

namespace Sys2Proof.Machine

/-- NOP (R181): nothing. -/
def execNop (s : State) : StepOutcome := .next (noChange s)

/-- START (R182, R183): accepted when 1 <= n <= NMAX, in every top-level state; else rejected. -/
def execStart (words : List Word) (s : State) : StepOutcome :=
  .next (if s.nmax.admits words.length then startRun words s else rejectStart s)

/-- RESET (R184): the run is discarded; FWD_CFG is kept. -/
def execReset (s : State) : StepOutcome :=
  .next { s with
    n := 0
    iw := []
    dec := []
    hz := []
    edges := []
    st := []
    stage := []
    fwdRun := false
    cycle := 0
    stallRem := 0
    running := false
    finished := false
    totalStall := 0
    completion := 0
    reject := false }

/-- PAUSE (R185): RUNNING <- 0, in every state. -/
def execPause (s : State) : StepOutcome := .next { s with running := false, reject := false }

/-- RESUME (R186): RUNNING <- 1 if the run has started and is not finished. -/
def execResume (s : State) : StepOutcome :=
  .next (if s.cycle > 0 ∧ s.finished = false then { s with running := true, reject := false } else noChange s)

/-- SETFWD (R187): FWD_CFG <- en, in every state; nothing is recomputed. -/
def execSetfwd (en : Bool) (s : State) : StepOutcome := .next { s with fwdCfg := en, reject := false }

/-- TICK (R188, R163): no-op unless running and not finished (R155), else frozen (R157), finishing (R161) or ordinary (R162). -/
def execTick (s : State) : StepOutcome :=
  .next
    (if s.running = false ∨ s.finished = true then noChange s
     else if s.stallRem > 0 then tickFrozen s
     else if s.cycle + 1 > s.completion then tickFinish s
     else tickOrdinary s)

/-- The reserved code 7 acts as NOP (R78, R189). -/
def execReserved7 (s : State) : StepOutcome := .next (noChange s)

end Sys2Proof.Machine
end

