-- ==== Sys2Proof/Machine/ImmediateWords.lean ====
section
/-! DEFINITION. The meanings of the instruction words of class IA, opcodes 8 to 15 (spec/40_decode.md R104). A word "has no effect of
its own in HFC: it is never executed. Its whole meaning is the decoded record DEC[k]": its meaning appends that record to DEC,
the part START plays for each word of its list (log entry 2). -/

namespace Sys2Proof.Machine

/-- Opcode 8 (R104): the record of class IA joins DEC. -/
def execIaOp08 (rs rt : RegNum) (low : BitVec 16) (s : State) : StepOutcome :=
  .next (contribute (recordIA 8#6 rs rt low) s)

/-- Opcode 9 (R104): the record of class IA joins DEC. -/
def execIaOp09 (rs rt : RegNum) (low : BitVec 16) (s : State) : StepOutcome :=
  .next (contribute (recordIA 9#6 rs rt low) s)

/-- Opcode 10 (R104): the record of class IA joins DEC. -/
def execIaOp10 (rs rt : RegNum) (low : BitVec 16) (s : State) : StepOutcome :=
  .next (contribute (recordIA 10#6 rs rt low) s)

/-- Opcode 11 (R104): the record of class IA joins DEC. -/
def execIaOp11 (rs rt : RegNum) (low : BitVec 16) (s : State) : StepOutcome :=
  .next (contribute (recordIA 11#6 rs rt low) s)

/-- Opcode 12 (R104): the record of class IA joins DEC. -/
def execIaOp12 (rs rt : RegNum) (low : BitVec 16) (s : State) : StepOutcome :=
  .next (contribute (recordIA 12#6 rs rt low) s)

/-- Opcode 13 (R104): the record of class IA joins DEC. -/
def execIaOp13 (rs rt : RegNum) (low : BitVec 16) (s : State) : StepOutcome :=
  .next (contribute (recordIA 13#6 rs rt low) s)

/-- Opcode 14 (R104): the record of class IA joins DEC. -/
def execIaOp14 (rs rt : RegNum) (low : BitVec 16) (s : State) : StepOutcome :=
  .next (contribute (recordIA 14#6 rs rt low) s)

/-- Opcode 15 (R104): the record of class IA joins DEC. -/
def execIaOp15 (rs rt : RegNum) (low : BitVec 16) (s : State) : StepOutcome :=
  .next (contribute (recordIA 15#6 rs rt low) s)

end Sys2Proof.Machine
end

