-- ==== Sys2Proof/Machine/JumpWords.lean ====
section
/-! DEFINITION. The meanings of the instruction words of classes J and JL, opcodes 2 and 3 (spec/40_decode.md R102, R103). A word "has no effect of
its own in HFC: it is never executed. Its whole meaning is the decoded record DEC[k]": its meaning appends that record to DEC,
the part START plays for each word of its list (log entry 2). -/

namespace Sys2Proof.Machine

/-- Opcode 2 (R102): the record of class J joins DEC. -/
def execJOp02 (rs rt : RegNum) (low : BitVec 16) (s : State) : StepOutcome :=
  .next (contribute (recordJ rs rt low) s)

/-- Opcode 3 (R103): the record of class JL joins DEC. -/
def execJlOp03 (rs rt : RegNum) (low : BitVec 16) (s : State) : StepOutcome :=
  .next (contribute (recordJL rs rt low) s)

end Sys2Proof.Machine
end

