-- ==== Sys2Proof/Machine/LoadWords.lean ====
section
/-! DEFINITION. The meanings of the instruction words of class IL, opcodes 32 to 37 (spec/40_decode.md R105). A word "has no effect of
its own in HFC: it is never executed. Its whole meaning is the decoded record DEC[k]": its meaning appends that record to DEC,
the part START plays for each word of its list (log entry 2). -/

namespace Sys2Proof.Machine

/-- Opcode 32 (R105): the record of class IL joins DEC. -/
def execIlOp32 (rs rt : RegNum) (low : BitVec 16) (s : State) : StepOutcome :=
  .next (contribute (recordIL 32#6 rs rt low) s)

/-- Opcode 33 (R105): the record of class IL joins DEC. -/
def execIlOp33 (rs rt : RegNum) (low : BitVec 16) (s : State) : StepOutcome :=
  .next (contribute (recordIL 33#6 rs rt low) s)

/-- Opcode 34 (R105): the record of class IL joins DEC. -/
def execIlOp34 (rs rt : RegNum) (low : BitVec 16) (s : State) : StepOutcome :=
  .next (contribute (recordIL 34#6 rs rt low) s)

/-- Opcode 35 (R105): the record of class IL joins DEC. -/
def execIlOp35 (rs rt : RegNum) (low : BitVec 16) (s : State) : StepOutcome :=
  .next (contribute (recordIL 35#6 rs rt low) s)

/-- Opcode 36 (R105): the record of class IL joins DEC. -/
def execIlOp36 (rs rt : RegNum) (low : BitVec 16) (s : State) : StepOutcome :=
  .next (contribute (recordIL 36#6 rs rt low) s)

/-- Opcode 37 (R105): the record of class IL joins DEC. -/
def execIlOp37 (rs rt : RegNum) (low : BitVec 16) (s : State) : StepOutcome :=
  .next (contribute (recordIL 37#6 rs rt low) s)

end Sys2Proof.Machine
end

