-- ==== Sys2Proof/Machine/OtherWords.lean ====
section
/-! DEFINITION. The meanings of the instruction words of class IN, every other opcode (spec/40_decode.md R106). A word "has no effect of
its own in HFC: it is never executed. Its whole meaning is the decoded record DEC[k]": its meaning appends that record to DEC,
the part START plays for each word of its list (log entry 2). -/

namespace Sys2Proof.Machine

/-- Opcode 1 (R106): the record of class IN joins DEC. -/
def execInOp01 (rs rt : RegNum) (low : BitVec 16) (s : State) : StepOutcome :=
  .next (contribute (recordIN 1#6 rs rt low) s)

/-- Opcode 4 (R106): the record of class IN joins DEC. -/
def execInOp04 (rs rt : RegNum) (low : BitVec 16) (s : State) : StepOutcome :=
  .next (contribute (recordIN 4#6 rs rt low) s)

/-- Opcode 5 (R106): the record of class IN joins DEC. -/
def execInOp05 (rs rt : RegNum) (low : BitVec 16) (s : State) : StepOutcome :=
  .next (contribute (recordIN 5#6 rs rt low) s)

/-- Opcode 6 (R106): the record of class IN joins DEC. -/
def execInOp06 (rs rt : RegNum) (low : BitVec 16) (s : State) : StepOutcome :=
  .next (contribute (recordIN 6#6 rs rt low) s)

/-- Opcode 7 (R106): the record of class IN joins DEC. -/
def execInOp07 (rs rt : RegNum) (low : BitVec 16) (s : State) : StepOutcome :=
  .next (contribute (recordIN 7#6 rs rt low) s)

/-- Opcode 16 (R106): the record of class IN joins DEC. -/
def execInOp16 (rs rt : RegNum) (low : BitVec 16) (s : State) : StepOutcome :=
  .next (contribute (recordIN 16#6 rs rt low) s)

/-- Opcode 17 (R106): the record of class IN joins DEC. -/
def execInOp17 (rs rt : RegNum) (low : BitVec 16) (s : State) : StepOutcome :=
  .next (contribute (recordIN 17#6 rs rt low) s)

/-- Opcode 18 (R106): the record of class IN joins DEC. -/
def execInOp18 (rs rt : RegNum) (low : BitVec 16) (s : State) : StepOutcome :=
  .next (contribute (recordIN 18#6 rs rt low) s)

/-- Opcode 19 (R106): the record of class IN joins DEC. -/
def execInOp19 (rs rt : RegNum) (low : BitVec 16) (s : State) : StepOutcome :=
  .next (contribute (recordIN 19#6 rs rt low) s)

/-- Opcode 20 (R106): the record of class IN joins DEC. -/
def execInOp20 (rs rt : RegNum) (low : BitVec 16) (s : State) : StepOutcome :=
  .next (contribute (recordIN 20#6 rs rt low) s)

/-- Opcode 21 (R106): the record of class IN joins DEC. -/
def execInOp21 (rs rt : RegNum) (low : BitVec 16) (s : State) : StepOutcome :=
  .next (contribute (recordIN 21#6 rs rt low) s)

/-- Opcode 22 (R106): the record of class IN joins DEC. -/
def execInOp22 (rs rt : RegNum) (low : BitVec 16) (s : State) : StepOutcome :=
  .next (contribute (recordIN 22#6 rs rt low) s)

/-- Opcode 23 (R106): the record of class IN joins DEC. -/
def execInOp23 (rs rt : RegNum) (low : BitVec 16) (s : State) : StepOutcome :=
  .next (contribute (recordIN 23#6 rs rt low) s)

/-- Opcode 24 (R106): the record of class IN joins DEC. -/
def execInOp24 (rs rt : RegNum) (low : BitVec 16) (s : State) : StepOutcome :=
  .next (contribute (recordIN 24#6 rs rt low) s)

/-- Opcode 25 (R106): the record of class IN joins DEC. -/
def execInOp25 (rs rt : RegNum) (low : BitVec 16) (s : State) : StepOutcome :=
  .next (contribute (recordIN 25#6 rs rt low) s)

/-- Opcode 26 (R106): the record of class IN joins DEC. -/
def execInOp26 (rs rt : RegNum) (low : BitVec 16) (s : State) : StepOutcome :=
  .next (contribute (recordIN 26#6 rs rt low) s)

/-- Opcode 27 (R106): the record of class IN joins DEC. -/
def execInOp27 (rs rt : RegNum) (low : BitVec 16) (s : State) : StepOutcome :=
  .next (contribute (recordIN 27#6 rs rt low) s)

/-- Opcode 28 (R106): the record of class IN joins DEC. -/
def execInOp28 (rs rt : RegNum) (low : BitVec 16) (s : State) : StepOutcome :=
  .next (contribute (recordIN 28#6 rs rt low) s)

/-- Opcode 29 (R106): the record of class IN joins DEC. -/
def execInOp29 (rs rt : RegNum) (low : BitVec 16) (s : State) : StepOutcome :=
  .next (contribute (recordIN 29#6 rs rt low) s)

/-- Opcode 30 (R106): the record of class IN joins DEC. -/
def execInOp30 (rs rt : RegNum) (low : BitVec 16) (s : State) : StepOutcome :=
  .next (contribute (recordIN 30#6 rs rt low) s)

/-- Opcode 31 (R106): the record of class IN joins DEC. -/
def execInOp31 (rs rt : RegNum) (low : BitVec 16) (s : State) : StepOutcome :=
  .next (contribute (recordIN 31#6 rs rt low) s)

/-- Opcode 38 (R106): the record of class IN joins DEC. -/
def execInOp38 (rs rt : RegNum) (low : BitVec 16) (s : State) : StepOutcome :=
  .next (contribute (recordIN 38#6 rs rt low) s)

/-- Opcode 39 (R106): the record of class IN joins DEC. -/
def execInOp39 (rs rt : RegNum) (low : BitVec 16) (s : State) : StepOutcome :=
  .next (contribute (recordIN 39#6 rs rt low) s)

/-- Opcode 40 (R106): the record of class IN joins DEC. -/
def execInOp40 (rs rt : RegNum) (low : BitVec 16) (s : State) : StepOutcome :=
  .next (contribute (recordIN 40#6 rs rt low) s)

/-- Opcode 41 (R106): the record of class IN joins DEC. -/
def execInOp41 (rs rt : RegNum) (low : BitVec 16) (s : State) : StepOutcome :=
  .next (contribute (recordIN 41#6 rs rt low) s)

/-- Opcode 42 (R106): the record of class IN joins DEC. -/
def execInOp42 (rs rt : RegNum) (low : BitVec 16) (s : State) : StepOutcome :=
  .next (contribute (recordIN 42#6 rs rt low) s)

/-- Opcode 43 (R106): the record of class IN joins DEC. -/
def execInOp43 (rs rt : RegNum) (low : BitVec 16) (s : State) : StepOutcome :=
  .next (contribute (recordIN 43#6 rs rt low) s)

/-- Opcode 44 (R106): the record of class IN joins DEC. -/
def execInOp44 (rs rt : RegNum) (low : BitVec 16) (s : State) : StepOutcome :=
  .next (contribute (recordIN 44#6 rs rt low) s)

/-- Opcode 45 (R106): the record of class IN joins DEC. -/
def execInOp45 (rs rt : RegNum) (low : BitVec 16) (s : State) : StepOutcome :=
  .next (contribute (recordIN 45#6 rs rt low) s)

/-- Opcode 46 (R106): the record of class IN joins DEC. -/
def execInOp46 (rs rt : RegNum) (low : BitVec 16) (s : State) : StepOutcome :=
  .next (contribute (recordIN 46#6 rs rt low) s)

/-- Opcode 47 (R106): the record of class IN joins DEC. -/
def execInOp47 (rs rt : RegNum) (low : BitVec 16) (s : State) : StepOutcome :=
  .next (contribute (recordIN 47#6 rs rt low) s)

/-- Opcode 48 (R106): the record of class IN joins DEC. -/
def execInOp48 (rs rt : RegNum) (low : BitVec 16) (s : State) : StepOutcome :=
  .next (contribute (recordIN 48#6 rs rt low) s)

/-- Opcode 49 (R106): the record of class IN joins DEC. -/
def execInOp49 (rs rt : RegNum) (low : BitVec 16) (s : State) : StepOutcome :=
  .next (contribute (recordIN 49#6 rs rt low) s)

/-- Opcode 50 (R106): the record of class IN joins DEC. -/
def execInOp50 (rs rt : RegNum) (low : BitVec 16) (s : State) : StepOutcome :=
  .next (contribute (recordIN 50#6 rs rt low) s)

/-- Opcode 51 (R106): the record of class IN joins DEC. -/
def execInOp51 (rs rt : RegNum) (low : BitVec 16) (s : State) : StepOutcome :=
  .next (contribute (recordIN 51#6 rs rt low) s)

/-- Opcode 52 (R106): the record of class IN joins DEC. -/
def execInOp52 (rs rt : RegNum) (low : BitVec 16) (s : State) : StepOutcome :=
  .next (contribute (recordIN 52#6 rs rt low) s)

/-- Opcode 53 (R106): the record of class IN joins DEC. -/
def execInOp53 (rs rt : RegNum) (low : BitVec 16) (s : State) : StepOutcome :=
  .next (contribute (recordIN 53#6 rs rt low) s)

/-- Opcode 54 (R106): the record of class IN joins DEC. -/
def execInOp54 (rs rt : RegNum) (low : BitVec 16) (s : State) : StepOutcome :=
  .next (contribute (recordIN 54#6 rs rt low) s)

/-- Opcode 55 (R106): the record of class IN joins DEC. -/
def execInOp55 (rs rt : RegNum) (low : BitVec 16) (s : State) : StepOutcome :=
  .next (contribute (recordIN 55#6 rs rt low) s)

/-- Opcode 56 (R106): the record of class IN joins DEC. -/
def execInOp56 (rs rt : RegNum) (low : BitVec 16) (s : State) : StepOutcome :=
  .next (contribute (recordIN 56#6 rs rt low) s)

/-- Opcode 57 (R106): the record of class IN joins DEC. -/
def execInOp57 (rs rt : RegNum) (low : BitVec 16) (s : State) : StepOutcome :=
  .next (contribute (recordIN 57#6 rs rt low) s)

/-- Opcode 58 (R106): the record of class IN joins DEC. -/
def execInOp58 (rs rt : RegNum) (low : BitVec 16) (s : State) : StepOutcome :=
  .next (contribute (recordIN 58#6 rs rt low) s)

/-- Opcode 59 (R106): the record of class IN joins DEC. -/
def execInOp59 (rs rt : RegNum) (low : BitVec 16) (s : State) : StepOutcome :=
  .next (contribute (recordIN 59#6 rs rt low) s)

/-- Opcode 60 (R106): the record of class IN joins DEC. -/
def execInOp60 (rs rt : RegNum) (low : BitVec 16) (s : State) : StepOutcome :=
  .next (contribute (recordIN 60#6 rs rt low) s)

/-- Opcode 61 (R106): the record of class IN joins DEC. -/
def execInOp61 (rs rt : RegNum) (low : BitVec 16) (s : State) : StepOutcome :=
  .next (contribute (recordIN 61#6 rs rt low) s)

/-- Opcode 62 (R106): the record of class IN joins DEC. -/
def execInOp62 (rs rt : RegNum) (low : BitVec 16) (s : State) : StepOutcome :=
  .next (contribute (recordIN 62#6 rs rt low) s)

/-- Opcode 63 (R106): the record of class IN joins DEC. -/
def execInOp63 (rs rt : RegNum) (low : BitVec 16) (s : State) : StepOutcome :=
  .next (contribute (recordIN 63#6 rs rt low) s)

end Sys2Proof.Machine
end

