-- ==== Sys2Proof/Machine/RegisterWords.lean ====
section
/-! DEFINITION. The meanings of the instruction words of class R, opcode 0 (spec/40_decode.md R101). A word "has no effect of
its own in HFC: it is never executed. Its whole meaning is the decoded record DEC[k]": its meaning appends that record to DEC,
the part START plays for each word of its list (log entry 2). -/

namespace Sys2Proof.Machine

/-- Opcode 0 (R101): the record of class R joins DEC. -/
def execROp00 (rs rt rd : RegNum) (unnamed : BitVec 5) (funct : BitVec 6) (s : State) : StepOutcome :=
  .next (contribute (recordR rs rt rd unnamed funct) s)

end Sys2Proof.Machine
end

