-- ==== Sys2Proof/Machine/Dispatch.lean ====
section
/-! DEFINITION. One arm per instruction: each calls its own meaning. -/

namespace Sys2Proof.Machine

def exec (i : Instr) (s : State) : Host.Outcome State Fault Refusal :=
  match i with
  | .rOp00 rs rt rd unnamed funct => Sys2Proof.Machine.execROp00 rs rt rd unnamed funct s
  | .inOp01 rs rt low => Sys2Proof.Machine.execInOp01 rs rt low s
  | .jOp02 rs rt low => Sys2Proof.Machine.execJOp02 rs rt low s
  | .jlOp03 rs rt low => Sys2Proof.Machine.execJlOp03 rs rt low s
  | .inOp04 rs rt low => Sys2Proof.Machine.execInOp04 rs rt low s
  | .inOp05 rs rt low => Sys2Proof.Machine.execInOp05 rs rt low s
  | .inOp06 rs rt low => Sys2Proof.Machine.execInOp06 rs rt low s
  | .inOp07 rs rt low => Sys2Proof.Machine.execInOp07 rs rt low s
  | .iaOp08 rs rt low => Sys2Proof.Machine.execIaOp08 rs rt low s
  | .iaOp09 rs rt low => Sys2Proof.Machine.execIaOp09 rs rt low s
  | .iaOp10 rs rt low => Sys2Proof.Machine.execIaOp10 rs rt low s
  | .iaOp11 rs rt low => Sys2Proof.Machine.execIaOp11 rs rt low s
  | .iaOp12 rs rt low => Sys2Proof.Machine.execIaOp12 rs rt low s
  | .iaOp13 rs rt low => Sys2Proof.Machine.execIaOp13 rs rt low s
  | .iaOp14 rs rt low => Sys2Proof.Machine.execIaOp14 rs rt low s
  | .iaOp15 rs rt low => Sys2Proof.Machine.execIaOp15 rs rt low s
  | .inOp16 rs rt low => Sys2Proof.Machine.execInOp16 rs rt low s
  | .inOp17 rs rt low => Sys2Proof.Machine.execInOp17 rs rt low s
  | .inOp18 rs rt low => Sys2Proof.Machine.execInOp18 rs rt low s
  | .inOp19 rs rt low => Sys2Proof.Machine.execInOp19 rs rt low s
  | .inOp20 rs rt low => Sys2Proof.Machine.execInOp20 rs rt low s
  | .inOp21 rs rt low => Sys2Proof.Machine.execInOp21 rs rt low s
  | .inOp22 rs rt low => Sys2Proof.Machine.execInOp22 rs rt low s
  | .inOp23 rs rt low => Sys2Proof.Machine.execInOp23 rs rt low s
  | .inOp24 rs rt low => Sys2Proof.Machine.execInOp24 rs rt low s
  | .inOp25 rs rt low => Sys2Proof.Machine.execInOp25 rs rt low s
  | .inOp26 rs rt low => Sys2Proof.Machine.execInOp26 rs rt low s
  | .inOp27 rs rt low => Sys2Proof.Machine.execInOp27 rs rt low s
  | .inOp28 rs rt low => Sys2Proof.Machine.execInOp28 rs rt low s
  | .inOp29 rs rt low => Sys2Proof.Machine.execInOp29 rs rt low s
  | .inOp30 rs rt low => Sys2Proof.Machine.execInOp30 rs rt low s
  | .inOp31 rs rt low => Sys2Proof.Machine.execInOp31 rs rt low s
  | .ilOp32 rs rt low => Sys2Proof.Machine.execIlOp32 rs rt low s
  | .ilOp33 rs rt low => Sys2Proof.Machine.execIlOp33 rs rt low s
  | .ilOp34 rs rt low => Sys2Proof.Machine.execIlOp34 rs rt low s
  | .ilOp35 rs rt low => Sys2Proof.Machine.execIlOp35 rs rt low s
  | .ilOp36 rs rt low => Sys2Proof.Machine.execIlOp36 rs rt low s
  | .ilOp37 rs rt low => Sys2Proof.Machine.execIlOp37 rs rt low s
  | .inOp38 rs rt low => Sys2Proof.Machine.execInOp38 rs rt low s
  | .inOp39 rs rt low => Sys2Proof.Machine.execInOp39 rs rt low s
  | .inOp40 rs rt low => Sys2Proof.Machine.execInOp40 rs rt low s
  | .inOp41 rs rt low => Sys2Proof.Machine.execInOp41 rs rt low s
  | .inOp42 rs rt low => Sys2Proof.Machine.execInOp42 rs rt low s
  | .inOp43 rs rt low => Sys2Proof.Machine.execInOp43 rs rt low s
  | .inOp44 rs rt low => Sys2Proof.Machine.execInOp44 rs rt low s
  | .inOp45 rs rt low => Sys2Proof.Machine.execInOp45 rs rt low s
  | .inOp46 rs rt low => Sys2Proof.Machine.execInOp46 rs rt low s
  | .inOp47 rs rt low => Sys2Proof.Machine.execInOp47 rs rt low s
  | .inOp48 rs rt low => Sys2Proof.Machine.execInOp48 rs rt low s
  | .inOp49 rs rt low => Sys2Proof.Machine.execInOp49 rs rt low s
  | .inOp50 rs rt low => Sys2Proof.Machine.execInOp50 rs rt low s
  | .inOp51 rs rt low => Sys2Proof.Machine.execInOp51 rs rt low s
  | .inOp52 rs rt low => Sys2Proof.Machine.execInOp52 rs rt low s
  | .inOp53 rs rt low => Sys2Proof.Machine.execInOp53 rs rt low s
  | .inOp54 rs rt low => Sys2Proof.Machine.execInOp54 rs rt low s
  | .inOp55 rs rt low => Sys2Proof.Machine.execInOp55 rs rt low s
  | .inOp56 rs rt low => Sys2Proof.Machine.execInOp56 rs rt low s
  | .inOp57 rs rt low => Sys2Proof.Machine.execInOp57 rs rt low s
  | .inOp58 rs rt low => Sys2Proof.Machine.execInOp58 rs rt low s
  | .inOp59 rs rt low => Sys2Proof.Machine.execInOp59 rs rt low s
  | .inOp60 rs rt low => Sys2Proof.Machine.execInOp60 rs rt low s
  | .inOp61 rs rt low => Sys2Proof.Machine.execInOp61 rs rt low s
  | .inOp62 rs rt low => Sys2Proof.Machine.execInOp62 rs rt low s
  | .inOp63 rs rt low => Sys2Proof.Machine.execInOp63 rs rt low s
  | .nop => Sys2Proof.Machine.execNop s
  | .start words => Sys2Proof.Machine.execStart words s
  | .reset => Sys2Proof.Machine.execReset s
  | .pause => Sys2Proof.Machine.execPause s
  | .resume => Sys2Proof.Machine.execResume s
  | .setfwd en => Sys2Proof.Machine.execSetfwd en s
  | .tick => Sys2Proof.Machine.execTick s
  | .reserved7 => Sys2Proof.Machine.execReserved7 s

end Sys2Proof.Machine
end

