-- ==== Sys2Proof/Machine/Step.lean ====
section
/-! DEFINITION. One step: the host presents one command, NOP when it has nothing to ask, and HFC applies its rule
(spec/44_commands.md R180). -/

namespace Sys2Proof.Machine

/-- One step of HFC (R180). -/
def step (s : State) : Host.Outcome State Fault Refusal :=
  exec (decodeCommand (takeCommand s).1) (takeCommand s).2

/-- The state in which the very next step runs the given opcode-table row: its command, or the START of the one word, is what
the host presents next (log entries 2 and 16). -/
def State.withFetchWord (s : State) (nbits w : Nat) : State :=
  match tableEncoding nbits w with
  | some e => presentNext (presentation e) s
  | none => s

end Sys2Proof.Machine
end

