-- ==== Sys2Proof/Machine/Flags.lean ====
section
/-! DEFINITION. The flags' joint meaning and the outputs that are functions of the state (spec/10_state.md R34): the top-level
state (spec/60_exceptions.md R206), `hold` (R168), the multiplexer selects (spec/42_forwarding_selector.md R144 to R146), and
the codes and layouts of the output fields (spec/30_encoding.md R79 to R81). Reading one changes nothing. -/

namespace Sys2Proof.Machine

/-! ### Top-level state and hold -/

/-- The four top-level states (R206). -/
inductive TopState where
  | NotStarted | Running | Paused | Finished
deriving DecidableEq, Repr

/-- The top-level state that CYCLE, RUNNING and FINISHED encode (R206); none for a combination that R206 does not list. -/
def topState (s : State) : Option TopState :=
  match decide (s.cycle = 0), s.running, s.finished with
  | true, false, false => some .NotStarted
  | false, true, false => some .Running
  | false, false, false => some .Paused
  | false, false, true => if s.cycle = s.completion then some .Finished else none
  | _, _, _ => none

/-- `hold` = (STALL_REM > 0): the next accepted TICK will be a frozen one (R168). -/
def hold (s : State) : Bool := decide (s.stallRem > 0)

/-! ### The selects -/

/-- The match bit MAd (operand RS) or MBd (operand RT) of index i (R124). -/
def matchBit (dec : List Decoded) (i d : Nat) (o : Operand) : Bool :=
  (matchList dec i).any (fun m => m.d == d && m.operand == o)

/-- FWD_MASK[i] as its four bits (R144). -/
structure FwdMask where
  aEX  : Bool
  aMEM : Bool
  bEX  : Bool
  bMEM : Bool
deriving DecidableEq, Repr

/-- FWD_MASK[i] (R144). -/
def fwdMask (s : State) (i : Nat) : FwdMask where
  aEX  := s.fwdRun && matchBit s.dec i 1 .RS
  aMEM := s.fwdRun && matchBit s.dec i 2 .RS
  bEX  := s.fwdRun && matchBit s.dec i 1 .RT
  bMEM := s.fwdRun && matchBit s.dec i 2 .RT

/-- The four-bit code { A_EX, A_MEM, B_EX, B_MEM }, A_EX most significant (R144). -/
def FwdMask.code (m : FwdMask) : BitVec 4 :=
  BitVec.ofBool m.aEX ++ BitVec.ofBool m.aMEM ++ BitVec.ofBool m.bEX ++ BitVec.ofBool m.bMEM

/-- A multiplexer select (R79, R145): register file, from EX, from MEM. -/
inductive Select where
  | regFile | fromEX | fromMEM
deriving DecidableEq, Repr

/-- The nearer producer wins (R145; D16, log entry 12). -/
def selectOf (ex mem : Bool) : Select := if ex then .fromEX else if mem then .fromMEM else .regFile

/-- FSEL_A[i], the select of operand rs (R145). -/
def fselA (s : State) (i : Nat) : Select := selectOf (fwdMask s i).aEX (fwdMask s i).aMEM

/-- FSEL_B[i], the select of operand rt (R145). -/
def fselB (s : State) (i : Nat) : Select := selectOf (fwdMask s i).bEX (fwdMask s i).bMEM

/-- The index shown in EX, if there is one (R146). -/
def indexInEX (s : State) : Option Nat := (List.range s.n).find? (fun e => s.stage[e]? == some .EX)

/-- `ex_sel_a` (R146; D17, log entry 12). -/
def exSelA (s : State) : Select :=
  match indexInEX s with
  | some e => fselA s e
  | none => .regFile

/-- `ex_sel_b` (R146; D17, log entry 12). -/
def exSelB (s : State) : Select :=
  match indexInEX s with
  | some e => fselB s e
  | none => .regFile

/-! ### Codes and layouts -/

/-- The stage code (R79). -/
def Stage.code : Stage → BitVec 3
  | .IF => 0#3
  | .ID => 1#3
  | .EX => 2#3
  | .MEM => 3#3
  | .WB => 4#3
  | .NONE => 7#3

/-- The code of DEC.kind (R79). -/
def Kind.code : Kind → BitVec 2
  | .R => 0#2
  | .I => 1#2
  | .J => 2#2

/-- The code of HZ.kind (R79). -/
def HazardKind.code : HazardKind → BitVec 2
  | .NONE => 0#2
  | .RAW => 1#2
  | .WAW => 2#2

/-- The operand code (R79). -/
def Operand.code : Operand → BitVec 1
  | .RS => 0#1
  | .RT => 1#1

/-- The select code (R79). -/
def Select.code : Select → BitVec 2
  | .regFile => 0#2
  | .fromEX => 1#2
  | .fromMEM => 2#2

/-- The 13-bit HazardRecord: kind 2, forwardable 1, stallCycles 2, gdist 2, gopnd 1, greg 5, most significant first (R80). -/
def HazardRecord.pack (h : HazardRecord) : BitVec 13 :=
  h.kind.code ++ BitVec.ofBool h.forwardable ++ BitVec.ofNat 2 h.stallCycles ++ BitVec.ofNat 2 h.gdist ++
    h.gopnd.code ++ h.greg

/-- ceil(log2 m), 0 for m = 0 and m = 1. -/
def ceilLog2 (m : Nat) : Nat := if m ≤ 1 then 0 else Nat.log2 (m - 1) + 1

/-- The bits that hold every value of CYCLE, COMPLETION and TOTAL_STALL when NMAX = nmax: ceil(log2(3 * NMAX + 3)) (R8). -/
def counterBits (nmax : Nat) : Nat := ceilLog2 (3 * nmax + 3)

/-- The bits of an instruction index when NMAX = nmax: ceil(log2(NMAX)), at least 1 (R81). -/
def indexBits (nmax : Nat) : Nat := max 1 (ceilLog2 nmax)

/-- A ForwardingEdge's fields as numbers, each with its width, in the order of R81. -/
def Edge.fields (nmax : Nat) (e : Edge) : List (Nat × Nat) :=
  [(indexBits nmax, e.fromIndex), (indexBits nmax, e.toIndex), (3, e.fromStage.code.toNat), (3, e.toStage.code.toNat),
   (5, e.registerLabel.toNat), (1, e.operand.code.toNat)]

end Sys2Proof.Machine
end

