-- ==== Sys2Proof/WellFormed.lean ====
section
/-! DEFINITION. Well-formed inputs. Every 32-bit word is legal (spec/30_encoding.md R76), and the widths are the types', so the
one check on an instruction is START's precondition (spec/00_scope.md R13, spec/44_commands.md R182); a port presentation is
well formed when the lanes that its command does not read are idle. -/

namespace Sys2Proof

/-- The stated preconditions of an instruction (R13): a START carries 1 <= n <= NMAX words (R182). -/
def Instr.wf (cap : Capacity) : Instr → Bool
  | .start words => cap.admits words.length
  | _ => true

/-- The lanes that command `cmd` does not read are idle: `en` is SETFWD's argument (code 5), `words` START's (code 1) (R77). -/
def PortCommand.wf (p : PortCommand) : Bool :=
  (p.en == false || p.cmd == 5#3) && (p.words.isEmpty || p.cmd == 1#3)

end Sys2Proof
end

