-- ==== Sys2Proof/Safety.lean ====
section
/-! DEFINITION. The terms the statements use: running a list of instructions, the match bits of the spec read off DEC directly,
and the invariant of spec/10_state.md R37 with what spec/43_stall_sequencer.md R165 and R166 derive about a freeze. -/

namespace Sys2Proof.Machine

/-- The instructions one after the other, stopping at the first that does not answer a next state. -/
def runInstrs : List Instr → State → StepOutcome
  | [], s => .next s
  | i :: is, s =>
    match exec i s with
    | .next t => runInstrs is t
    | .fault f => .fault f
    | .refused r => .refused r

/-- k TICKs. -/
def runTicks (k : Nat) (s : State) : StepOutcome := runInstrs (List.replicate k .tick) s

/-- The state with the output `reject` set aside: `reject` is "a function of the current command and not of the state" (R34). -/
def quiet (s : State) : State := { s with reject := false }

/-- The field of a consumer that an operand names (R124). -/
def sourceField (c : Decoded) : Operand → RegNum
  | .RS => c.rs
  | .RT => c.rt

/-- Index i is examined as a consumer (R121): it is not index 0 and its word is of kind R or I. -/
def Examined (dec : List Decoded) (i : Nat) : Prop :=
  1 ≤ i ∧ ∃ c, dec[i]? = some c ∧ c.kind ≠ .J

/-- The match bit MAd (operand RS) or MBd (operand RT) of consumer i as R122 to R124 define it: the producer at distance d
exists, writes a register, and that register is the one the operand names. -/
def MatchBit (dec : List Decoded) (i d : Nat) (o : Operand) : Prop :=
  (d = 1 ∨ d = 2) ∧ d ≤ i ∧
    ∃ c p, dec[i]? = some c ∧ dec[i - d]? = some p ∧ p.rd ≠ 0#5 ∧ sourceField c o = p.rd

/-- M(i) is not empty: one of MA1, MA2, MB1, MB2 is 1 (R133 b). -/
def HasMatch (dec : List Decoded) (i : Nat) : Prop :=
  ∃ d o, MatchBit dec i d o

/-- The producer at distance d of consumer i writes the consumer's destination, which is not 0 (R128). -/
def WritesSame (dec : List Decoded) (i d : Nat) : Prop :=
  (d = 1 ∨ d = 2) ∧ d ≤ i ∧ ∃ c p, dec[i]? = some c ∧ dec[i - d]? = some p ∧ c.rd ≠ 0#5 ∧ p.rd = c.rd

/-- T(k), the cycle at which instruction k is in ID (R165). -/
def idCycle (st : List Nat) (k : Nat) : Nat := k + 2 + precedingStalls st k

/-- The invariant of every reachable state: R37, with the tables of R58 and the freeze of R165 and R166. -/
structure Inv (s : State) : Prop where
  /-- IW and STAGE have N entries (R24, R28). -/
  lengths : s.iw.length = s.n ∧ s.stage.length = s.n
  /-- N is 0 or a count that an accepted START may carry (R24). -/
  capacity : s.n = 0 ∨ s.nmax.admits s.n = true
  /-- The tables describe the current IW and FWD_RUN (R33, R58). -/
  tables : s.dec = s.iw.map decodeRecord ∧ s.hz = analyzeHazards s.n s.dec s.fwdRun ∧
    s.edges = analyzeEdges s.n s.dec s.fwdRun ∧ s.st = analyzeStalls s.n s.dec s.fwdRun
  /-- TOTAL_STALL and COMPLETION (R131; 0 without a run, R36). -/
  totals : s.totalStall = s.st.sum ∧ s.completion = if s.n = 0 then 0 else s.n + 4 + s.totalStall
  /-- Without a run CYCLE and FWD_RUN are 0 (R37 a, R36). -/
  idle : s.n = 0 → s.cycle = 0 ∧ s.fwdRun = false
  /-- In a run 1 <= CYCLE <= COMPLETION (R37 d). -/
  bounds : s.n ≠ 0 → 1 ≤ s.cycle ∧ s.cycle ≤ s.completion
  /-- RUNNING (R37 b). -/
  runningRun : s.running = true → s.n ≠ 0 ∧ s.finished = false
  /-- FINISHED (R37 c). -/
  finishedRun : s.finished = true →
    s.n ≠ 0 ∧ s.cycle = s.completion ∧ s.stallRem = 0 ∧ ∀ x ∈ s.stage, x = .NONE
  /-- STAGE is the map of some cycle (R28). -/
  shown : ∃ c, 1 ≤ c ∧ c ≤ s.cycle + 1 ∧ s.stage = stageMap s.n s.st c
  /-- A freeze is that of one instruction k shown in ID, STALL_REM cycles before its end (R37 e, R165). -/
  freeze : s.stallRem > 0 → ∃ k, k < s.n ∧ idCycle s.st k ≤ s.cycle ∧
    s.cycle + s.stallRem = idCycle s.st k + stallAt s.st k ∧ s.stage = stageMap s.n s.st (idCycle s.st k)
  /-- Outside a freeze every instruction that has been in ID has had its whole freeze (R166). -/
  thaw : s.stallRem = 0 → ∀ k, k < s.n → idCycle s.st k ≤ s.cycle → idCycle s.st k + stallAt s.st k ≤ s.cycle

end Sys2Proof.Machine
end

