-- ==== Sys2Proof/Certificates/Slice0/Obligations.lean ====
section
/-! DEFINITION. The statements for the provers. Each docstring says what is stated and which rules of spec/ it rests on. -/

open Sys2Proof Sys2Proof.Machine

/-- For every one of the 72 instructions, with every operand at every value, decode (encode i) = i: no bit of an encoding
is dropped and no two rows share a word or a command code. Rests on R71, R73, R77. -/
def Obligations.DecodeOfEncodeIsIdentity : Prop :=
  ∀ i : Instr, decode (encode i) = i

/-- Every 32-bit word is the encoding of the instruction it decodes to; so is every port presentation whose unread
argument lanes are idle. Rests on R71, R76, R77. -/
def Obligations.EncodeOfDecodeIsIdentity : Prop :=
  (∀ w : Word, encode (decodeWord w) = .word w) ∧
  (∀ p : PortCommand, p.wf = true → encode (decodeCommand p) = .command p)

/-- The words of decoder vectors DV1, DV9, DV12, DV16, DV20, DV23 and DV25 decode to the row and the fields that the
vectors give; the command code 1 decodes to START of the list in its lane, and 6 to TICK, whatever the lanes they do
not read hold. (The command codes are a decision of the spec, D2; that an unread lane may hold anything is DEDUCED
from R77, log entry 7.) Rests on R71, R73, R77, 95_test_vectors.md DV1, DV9, DV12, DV16, DV20, DV23, DV25. -/
def Obligations.WordsWrittenOutDecodeAsTheSpecSays : Prop :=
  decodeWord 0x00a63820#32 = .rOp00 5#5 6#5 7#5 0#5 32#6 ∧
  decodeWord 0x08210000#32 = .jOp02 1#5 1#5 0#16 ∧
  decodeWord 0x0fffffff#32 = .jlOp03 31#5 31#5 0xffff#16 ∧
  decodeWord 0x3c081234#32 = .iaOp15 0#5 8#5 0x1234#16 ∧
  decodeWord 0x8c880000#32 = .ilOp35 4#5 8#5 0#16 ∧
  decodeWord 0xac8a0004#32 = .inOp43 4#5 10#5 4#16 ∧
  decodeWord 0xffffffff#32 = .inOp63 31#5 31#5 0xffff#16 ∧
  (∀ en ws, decodeCommand { cmd := 1#3, en := en, words := ws } = .start ws) ∧
  (∀ en ws, decodeCommand { cmd := 6#3, en := en, words := ws } = .tick)

/-- For every 32-bit word w with opcode p = w / 2^26: the record has opcode p, rs and rt the numbers of bits [25:21] and
[20:16]; kind R if p = 0, J if p is 2 or 3, else I; destination the number of bits [15:11] if p = 0, 31 if p = 3, 0 if
p = 2, the rt field if p is in 8..15 or 32..37, else 0; and for kind R funct is the number of bits [5:0]. (That the
two ranges include their ends 8, 15, 32 and 37 is a decision of the spec, D22, log entry 15.) Rests on R71, R72, R100. -/
def Obligations.DecodedRecordByOpcode : Prop :=
  ∀ w : Word,
    let p := w.toNat / 2 ^ 26
    let d := decodeRecord w
    d.opcode.toNat = p ∧ d.rs.toNat = w.toNat / 2 ^ 21 % 32 ∧ d.rt.toNat = w.toNat / 2 ^ 16 % 32 ∧
    (d.kind = .R ↔ p = 0) ∧ (d.kind = .J ↔ p = 2 ∨ p = 3) ∧ (d.kind = .I ↔ p = 1 ∨ 4 ≤ p) ∧
    d.rd.toNat =
      (if p = 0 then w.toNat / 2 ^ 11 % 32
       else if p = 3 then 31
       else if (8 ≤ p ∧ p ≤ 15) ∨ (32 ≤ p ∧ p ≤ 37) then w.toNat / 2 ^ 16 % 32
       else 0) ∧
    (p = 0 → d.funct.toNat = w.toNat % 64)

/-- For every state and operands, exec of the opcode-0 word answers the next state in which one record has joined DEC:
opcode 0, the rs, rt and rd fields, funct, kind R; nothing else has changed, and the bits [10:6] do not matter. That a
word's step appends its record to DEC is the model's form of "what it contributes to DEC" (log entry 2). Rests on
R101, R100, R107. -/
def Obligations.ClassRWordContributesItsRecord : Prop :=
  ∀ (rs rt rd : RegNum) (unnamed : BitVec 5) (funct : BitVec 6) (s : State),
    exec (.rOp00 rs rt rd unnamed funct) s = .next { s with
      dec := s.dec ++ [{ opcode := 0#6, rs := rs, rt := rt, rd := rd, funct := funct, kind := .R }] }

/-- For every state and operands, exec of a class J word answers the next state in which a record of kind J with
destination 0 has joined DEC, and of a class JL word one with destination 31; nothing else has changed. DEC.funct is
FUNCT_NONR of the word (log entry 5); that a word's step appends its record to DEC is the model's form (log entry 2).
Rests on R102, R103, R100, R107, R111. -/
def Obligations.JumpWordsContributeTheirRecords : Prop :=
  ∀ (rs rt : RegNum) (low : BitVec 16) (s : State),
    exec (.jOp02 rs rt low) s = .next { s with
      dec := s.dec ++ [{ opcode := 2#6, rs := rs, rt := rt, rd := 0#5,
                         funct := Config.functNonR (2#6 ++ rs ++ rt ++ low), kind := .J }] } ∧
    exec (.jlOp03 rs rt low) s = .next { s with
      dec := s.dec ++ [{ opcode := 3#6, rs := rs, rt := rt, rd := 31#5,
                         funct := Config.functNonR (3#6 ++ rs ++ rt ++ low), kind := .J }] }

/-- For every state and operands, exec of each word of class IA answers the next state in which one record has joined DEC,
with the word's opcode, rs and rt, kind I and destination rt, and nothing else has changed. DEC.funct of such a word
is the open parameter FUNCT_NONR of the word, whatever it is (log entry 5); that a word's step appends its record to
DEC is the model's form of "what it contributes to DEC" (log entry 2). Rests on R104, R100, R107, R111. -/
def Obligations.ClassIAWordsContributeTheirRecords : Prop :=
  ∀ p ∈ ([(8#6, Instr.iaOp08), (9#6, Instr.iaOp09), (10#6, Instr.iaOp10), (11#6, Instr.iaOp11), (12#6, Instr.iaOp12),
      (13#6, Instr.iaOp13), (14#6, Instr.iaOp14), (15#6, Instr.iaOp15)] : List (Opcode × (RegNum → RegNum → BitVec 16 → Instr))),
    ∀ (rs rt : RegNum) (low : BitVec 16) (s : State),
      exec (p.2 rs rt low) s = .next { s with
        dec := s.dec ++ [{ opcode := p.1, rs := rs, rt := rt, rd := rt,
                           funct := Config.functNonR (p.1 ++ rs ++ rt ++ low), kind := .I }] }

/-- For every state and operands, exec of each word of class IL answers the next state in which one record has joined DEC,
with the word's opcode, rs and rt, kind I and destination rt, and nothing else has changed. DEC.funct of such a word
is the open parameter FUNCT_NONR of the word, whatever it is (log entry 5); that a word's step appends its record to
DEC is the model's form of "what it contributes to DEC" (log entry 2). Rests on R105, R100, R107, R111. -/
def Obligations.ClassILWordsContributeTheirRecords : Prop :=
  ∀ p ∈ ([(32#6, Instr.ilOp32), (33#6, Instr.ilOp33), (34#6, Instr.ilOp34), (35#6, Instr.ilOp35), (36#6, Instr.ilOp36),
      (37#6, Instr.ilOp37)] : List (Opcode × (RegNum → RegNum → BitVec 16 → Instr))),
    ∀ (rs rt : RegNum) (low : BitVec 16) (s : State),
      exec (p.2 rs rt low) s = .next { s with
        dec := s.dec ++ [{ opcode := p.1, rs := rs, rt := rt, rd := rt,
                           funct := Config.functNonR (p.1 ++ rs ++ rt ++ low), kind := .I }] }

/-- For every state and operands, exec of each word of class IN answers the next state in which one record has joined DEC,
with the word's opcode, rs and rt, kind I and destination 0, and nothing else has changed. DEC.funct of such a word is
the open parameter FUNCT_NONR of the word, whatever it is (log entry 5); that a word's step appends its record to DEC
is the model's form of "what it contributes to DEC" (log entry 2). Rests on R106, R100, R107, R111. -/
def Obligations.ClassINWordsContributeTheirRecords : Prop :=
  ∀ p ∈ ([(1#6, Instr.inOp01), (4#6, Instr.inOp04), (5#6, Instr.inOp05), (6#6, Instr.inOp06), (7#6, Instr.inOp07),
      (16#6, Instr.inOp16), (17#6, Instr.inOp17), (18#6, Instr.inOp18), (19#6, Instr.inOp19), (20#6, Instr.inOp20),
      (21#6, Instr.inOp21), (22#6, Instr.inOp22), (23#6, Instr.inOp23), (24#6, Instr.inOp24), (25#6, Instr.inOp25),
      (26#6, Instr.inOp26), (27#6, Instr.inOp27), (28#6, Instr.inOp28), (29#6, Instr.inOp29), (30#6, Instr.inOp30),
      (31#6, Instr.inOp31), (38#6, Instr.inOp38), (39#6, Instr.inOp39), (40#6, Instr.inOp40), (41#6, Instr.inOp41),
      (42#6, Instr.inOp42), (43#6, Instr.inOp43), (44#6, Instr.inOp44), (45#6, Instr.inOp45), (46#6, Instr.inOp46),
      (47#6, Instr.inOp47), (48#6, Instr.inOp48), (49#6, Instr.inOp49), (50#6, Instr.inOp50), (51#6, Instr.inOp51),
      (52#6, Instr.inOp52), (53#6, Instr.inOp53), (54#6, Instr.inOp54), (55#6, Instr.inOp55), (56#6, Instr.inOp56),
      (57#6, Instr.inOp57), (58#6, Instr.inOp58), (59#6, Instr.inOp59), (60#6, Instr.inOp60), (61#6, Instr.inOp61),
      (62#6, Instr.inOp62), (63#6, Instr.inOp63)] : List (Opcode × (RegNum → RegNum → BitVec 16 → Instr))),
    ∀ (rs rt : RegNum) (low : BitVec 16) (s : State),
      exec (p.2 rs rt low) s = .next { s with
        dec := s.dec ++ [{ opcode := p.1, rs := rs, rt := rt, rd := 0#5,
                           funct := Config.functNonR (p.1 ++ rs ++ rt ++ low), kind := .I }] }

/-- For every list of words there is one DEC such that: from every state with DEC emptied, running the meanings of the
words one after the other answers a next state that differs from it in DEC alone, which is that DEC; and every state
that accepts a START of the list is taken by it to a state with that DEC. (That the meaning of a bare word appends its
record to DEC is the model's own form, DESIGN CHOICE, log entry 2: R100 gives the record, and R182 gives what START
leaves.) Rests on R100, R182. -/
def Obligations.StartDecodesByTheMeaningsOfItsWords : Prop :=
  ∀ ws : List Word, ∃ dec : List Decoded,
    (∀ s : State, runInstrs (ws.map decodeWord) { s with dec := [] } = .next { s with dec := dec }) ∧
    (∀ s : State, s.nmax.admits ws.length = true → ∃ t, exec (.start ws) s = .next t ∧ t.dec = dec)

/-- exec of NOP and of the reserved code 7 answers, in every state, the next state that differs only in the output reject,
which is 0. (Both codes are decisions of the spec, D2 and D26.) Rests on R181, R189, R78. -/
def Obligations.NopAndReservedCodeChangeNothing : Prop :=
  ∀ s : State, exec .nop s = .next { s with reject := false } ∧ exec .reserved7 s = .next { s with reject := false }

/-- In every state exec of RESUME answers a next state: with CYCLE > 0 and FINISHED = 0 it is the state with RUNNING = 1,
otherwise the state itself, the output reject apart. Formalises R186. -/
def Obligations.ResumeSetsRunningOfAStartedUnfinishedRun : Prop :=
  ∀ s : State, ∃ t, exec .resume s = .next t ∧
    quiet t = quiet (if s.cycle > 0 ∧ s.finished = false then { s with running := true } else s)

/-- In every state exec of SETFWD answers a next state that is the state with FWD_CFG = en, the output reject apart; and
an accepted START after it runs under en: FWD_RUN is en and HZ, EDGES and ST are the analysis under en. Formalises
R187. -/
def Obligations.SetfwdWritesThePolicyAlone : Prop :=
  ∀ (en : Bool) (s : State), ∃ t, exec (.setfwd en) s = .next t ∧ quiet t = quiet { s with fwdCfg := en } ∧
    ∀ ws, s.nmax.admits ws.length = true → ∃ u, exec (.start ws) t = .next u ∧ u.fwdRun = en ∧
      u.hz = analyzeHazards u.n u.dec en ∧ u.edges = analyzeEdges u.n u.dec en ∧ u.st = analyzeStalls u.n u.dec en

/-- In every state exec of PAUSE answers the state with RUNNING = 0 (and the output reject 0). That it does so without
testing the state is a decision of the spec (D21). Rests on R185. -/
def Obligations.PauseClearsRunningAlone : Prop :=
  ∀ s : State, exec .pause s = .next { s with running := false, reject := false }

/-- In every state exec of RESET answers the power-on state with FWD_CFG as it was (and the machine's NMAX and the host's
further commands, which are the model's own fields). The zero of FWD_RUN, TOTAL_STALL and COMPLETION is a decision of
the spec (D7, D27). Rests on R184, R221, R36. -/
def Obligations.ResetCommandGivesThePowerOnStateWithThePolicyKept : Prop :=
  ∀ s : State, exec .reset s = .next { State.reset with fwdCfg := s.fwdCfg, nmax := s.nmax, port := s.port }

/-- State.reset has FWD_CFG = FWD_POR, N, CYCLE, STALL_REM, TOTAL_STALL and COMPLETION 0, RUNNING, FINISHED and FWD_RUN 0,
and every table empty. The power-on state is a decision of the spec (D6). Rests on R36, R220. -/
def Obligations.PowerOnValuesOfTheRegisters : Prop :=
  State.reset.fwdCfg = Config.fwdPor ∧ State.reset.n = 0 ∧ State.reset.iw = [] ∧ State.reset.fwdRun = false ∧
  State.reset.cycle = 0 ∧ State.reset.stallRem = 0 ∧ State.reset.running = false ∧ State.reset.finished = false ∧
  State.reset.stage = [] ∧ State.reset.dec = [] ∧ State.reset.hz = [] ∧ State.reset.edges = [] ∧ State.reset.st = [] ∧
  State.reset.totalStall = 0 ∧ State.reset.completion = 0

/-- A START whose list is empty, or longer than NMAX = p + 1, answers in every state the state itself with the output
reject 1. (The capacity and the output are decisions of the spec, D3 and D4.) Rests on R183, R201. -/
def Obligations.StartRejectedChangesNoState : Prop :=
  (∀ s : State, exec (.start []) s = .next { s with reject := true }) ∧
  (∀ (s : State) (p : Nat) (ws : List Word), s.nmax = .upTo p → p + 1 < ws.length →
    exec (.start ws) s = .next { s with reject := true })

/-- Every step answers a next state whose output reject is 1 if and only if the command it took is not well formed for the
machine's NMAX, that is, a START with n = 0 or n > NMAX. (The output is a decision of the spec, D4.) Rests on R183,
R202. -/
def Obligations.RejectIsExactlyAStartOutsideItsPreconditions : Prop :=
  ∀ s : State, ∃ t, step s = .next t ∧
    (t.reject = true ↔ (decodeCommand (takeCommand s).1).wf s.nmax = false)

/-- With 1 <= n <= NMAX, exec of START answers in every state a next state with N = n, IW the words, FWD_RUN = FWD_CFG,
DEC their records, HZ, EDGES and ST the analysis, TOTAL_STALL and COMPLETION the totals, CYCLE 1, STAGE IF for index 0
and NONE for the others, STALL_REM 0, RUNNING 1, FINISHED 0; FWD_CFG is kept. (START in every state, and the clearing
of STALL_REM and FINISHED, are decisions of the spec, D25 and D9; reject = 0 is D4.) Rests on R182, R131, R159, R58. -/
def Obligations.StartAcceptedReplacesTheRun : Prop :=
  ∀ (ws : List Word) (s : State), s.nmax.admits ws.length = true →
    ∃ t, exec (.start ws) s = .next t ∧ t.n = ws.length ∧ t.iw = ws ∧ t.fwdRun = s.fwdCfg ∧
      t.dec = ws.map decodeRecord ∧ t.hz = analyzeHazards t.n t.dec s.fwdCfg ∧
      t.edges = analyzeEdges t.n t.dec s.fwdCfg ∧ t.st = t.hz.map HazardRecord.stallCycles ∧
      t.totalStall = t.st.sum ∧ t.completion = ws.length + 4 + t.st.sum ∧ t.cycle = 1 ∧
      t.stage = .IF :: List.replicate (ws.length - 1) .NONE ∧ t.stallRem = 0 ∧ t.running = true ∧ t.finished = false ∧
      t.reject = false ∧ t.fwdCfg = s.fwdCfg ∧ t.nmax = s.nmax ∧ t.port = s.port

/-- If a START is accepted and gives state t, the same START in any later state with the same NMAX and FWD_CFG is accepted
and gives a run that differs from t in the host's further commands alone: every table and every run register is the
same (idempotence). Rests on R33, R182. -/
def Obligations.RepeatedStartGivesTheSameRun : Prop :=
  ∀ (ws : List Word) (s u : State), s.nmax.admits ws.length = true → u.nmax = s.nmax → u.fwdCfg = s.fwdCfg →
    ∃ t, exec (.start ws) s = .next t ∧ exec (.start ws) u = .next { t with port := u.port }

/-- If RUNNING = 0 or FINISHED = 1, exec of TICK answers the state itself, the output reject apart. Otherwise it answers a
next state by exactly one path: frozen if STALL_REM > 0 (STALL_REM decreases, STAGE stays), finishing if STALL_REM = 0
and CYCLE + 1 > COMPLETION (FINISHED becomes 1), ordinary if STALL_REM = 0 and CYCLE + 1 <= COMPLETION (CYCLE
advances, RUNNING stays 1). (nextCycle = CYCLE + 1, and so the boundary between the last two paths, is a decision of
the spec, D8, log entry 14.) Rests on R155, R156, R157, R161, R162. -/
def Obligations.TickIsANoOpUnlessRunningAndUnfinished : Prop :=
  ∀ s : State, ∃ t, exec .tick s = .next t ∧
    (s.running = false ∨ s.finished = true → quiet t = quiet s) ∧
    (s.running = true ∧ s.finished = false →
      (s.stallRem > 0 → t.stallRem + 1 = s.stallRem ∧ t.stage = s.stage ∧ t.finished = false ∧ t.running = true) ∧
      (s.stallRem = 0 ∧ s.cycle + 1 > s.completion → t.finished = true ∧ t.running = false) ∧
      (s.stallRem = 0 ∧ s.cycle + 1 ≤ s.completion →
        t.cycle = s.cycle + 1 ∧ t.finished = false ∧ t.running = true))

/-- In a running unfinished state with STALL_REM > 0, exec of TICK answers the state with STALL_REM - 1 and CYCLE + 1 and
nothing else changed, the output reject apart: STAGE, RUNNING and FINISHED stay whatever CYCLE and COMPLETION are.
Formalises R157. -/
def Obligations.FrozenTickCountsDownAndLeavesTheStageMap : Prop :=
  ∀ s : State, s.running = true → s.finished = false → s.stallRem > 0 →
    ∃ t, exec .tick s = .next t ∧ quiet t = quiet { s with stallRem := s.stallRem - 1, cycle := s.cycle + 1 }

/-- In a running unfinished state with STALL_REM = 0 and CYCLE + 1 <= COMPLETION, exec of TICK answers a next state with
CYCLE + 1, in which instruction k, with si = (CYCLE + 1) - k - 1 - (the stalls before k), is in the stage with code si
if 0 <= si < 5 and in none otherwise; STALL_REM is the stall count of an instruction with si = 1 that has one, else 0;
nothing else but the output reject changes. (nextCycle = CYCLE + 1 is a decision of the spec, D8; an ST shorter than
N, which no run has, counts as 0 there, log entry 17.) Rests on R158, R159, R160, R162. -/
def Obligations.OrdinaryTickComputesTheStageMapAndTheTrigger : Prop :=
  ∀ s : State, s.running = true → s.finished = false → s.stallRem = 0 → s.cycle + 1 ≤ s.completion →
    ∃ t, exec .tick s = .next t ∧ t.cycle = s.cycle + 1 ∧ t.stage.length = s.n ∧
      (∀ k, k < s.n → ∃ x, t.stage[k]? = some x ∧
        (0 ≤ ((s.cycle + 1 : Nat) : Int) - k - 1 - ((s.st.take k).sum : Nat) ∧
            ((s.cycle + 1 : Nat) : Int) - k - 1 - ((s.st.take k).sum : Nat) < 5 →
          (x.code.toNat : Int) = ((s.cycle + 1 : Nat) : Int) - k - 1 - ((s.st.take k).sum : Nat)) ∧
        (¬(0 ≤ ((s.cycle + 1 : Nat) : Int) - k - 1 - ((s.st.take k).sum : Nat) ∧
            ((s.cycle + 1 : Nat) : Int) - k - 1 - ((s.st.take k).sum : Nat) < 5) → x = .NONE)) ∧
      (∀ k q, k < s.n → s.cycle + 1 = k + 2 + (s.st.take k).sum → s.st[k]? = some q → q > 0 → t.stallRem = q) ∧
      ((∀ k q, k < s.n → s.cycle + 1 = k + 2 + (s.st.take k).sum → s.st[k]? = some q → q = 0) → t.stallRem = 0) ∧
      { t with stage := s.stage, stallRem := s.stallRem, cycle := s.cycle, reject := s.reject } = s

/-- In a running unfinished state of the invariant with STALL_REM = 0 and CYCLE + 1 > COMPLETION, exec of TICK answers a
next state with FINISHED = 1, RUNNING = 0, CYCLE = COMPLETION = the old CYCLE, STALL_REM = 0 and every STAGE entry
NONE; nothing else but the output reject changes. (That the map is rewritten on the finishing TICK is a decision of
the spec, D10, log entry 11; so is nextCycle = CYCLE + 1, D8, log entry 14.) Rests on R161, R37. -/
def Obligations.FinishingTickCapsTheCycleAndEmptiesThePipeline : Prop :=
  ∀ s : State, Inv s → s.running = true → s.stallRem = 0 → s.cycle + 1 > s.completion →
    ∃ t, exec .tick s = .next t ∧ t.finished = true ∧ t.running = false ∧ t.cycle = s.completion ∧ t.cycle = s.cycle ∧
      t.stallRem = 0 ∧ t.stage = List.replicate s.n .NONE ∧
      { t with stage := s.stage, finished := s.finished, running := s.running, reject := s.reject } = s

/-- In every state of the invariant, if instructions k < k' are both shown in the pipeline, the stage index of k' is
smaller than that of k. Rests on R164, R37. -/
def Obligations.OneInstructionPerStageInProgramOrder : Prop :=
  ∀ s : State, Inv s → ∀ (k k' : Nat) (x x' : Stage), k < k' → s.stage[k]? = some x → s.stage[k']? = some x' → x ≠ .NONE → x' ≠ .NONE →
    x'.code.toNat < x.code.toNat

/-- In a running state of the invariant with STALL_REM = 0, if the next cycle is T(k) = k + 2 + precedingStalls(k) of an
instruction k with ST[k] = q > 0, then the TICK shows k in ID with hold = 1 and STALL_REM = q; for every j <= q, j
further TICKs leave the whole STAGE table as it is, with STALL_REM = q - j, CYCLE = T(k) + j and hold = 1 if j < q and
0 if j = q; and the TICK after those q shows k at stage index q + 2, MEM or WB, never EX, and shows instruction k + 1,
if there is one, in ID. (hold is a decision of the spec, D24, log entry 12; the next cycle is its decision D8 and the
jump its resolution of conflict C7, log entry 14.) Rests on R165, R160, R168. -/
def Obligations.FreezeHoldsTheMapAndTheInstructionThenJumps : Prop :=
  ∀ (s : State) (k q : Nat), Inv s → s.running = true → s.stallRem = 0 → k < s.n →
    s.cycle + 1 = idCycle s.st k → s.st[k]? = some q → q > 0 →
    ∃ t, exec .tick s = .next t ∧ t.stage[k]? = some .ID ∧ t.stallRem = q ∧ hold t = true ∧
      (∀ j, j ≤ q → ∃ u, runTicks j t = .next u ∧ u.stage = t.stage ∧ u.stallRem = q - j ∧
        u.cycle = idCycle s.st k + j ∧ (j < q → hold u = true) ∧ (j = q → hold u = false)) ∧
      ∃ v, runTicks (q + 1) t = .next v ∧ v.stage[k]? = some (if q = 1 then .MEM else .WB) ∧
        (k + 1 < s.n → v.stage[k + 1]? = some .ID)

/-- For every accepted START, from every state: the run it starts is unfinished and running after every j < COMPLETION
TICKs, with CYCLE = j + 1, and after COMPLETION TICKs it is finished at CYCLE = COMPLETION. (START in every state and
what it clears are decisions of the spec, D25 and D9, log entry 13; nextCycle = CYCLE + 1 is D8, log entry 14.) Rests
on R14, R167, R166. -/
def Obligations.RunFinishesAfterExactlyCompletionTicks : Prop :=
  ∀ (ws : List Word) (s : State), s.nmax.admits ws.length = true →
    ∃ t, exec (.start ws) s = .next t ∧
      (∀ j, j < t.completion → ∃ u, runTicks j t = .next u ∧ u.finished = false ∧ u.running = true ∧ u.cycle = j + 1) ∧
      ∃ v, runTicks t.completion t = .next v ∧ v.finished = true ∧ v.running = false ∧ v.cycle = t.completion

/-- In every state of the invariant exec of TICK answers a next state whose CYCLE is at least the old one, at most one
more, and at most COMPLETION, which it does not change. Rests on R26, R166. -/
def Obligations.CycleNeverDecreasesAndNeverPassesCompletion : Prop :=
  ∀ s : State, Inv s → ∃ t, exec .tick s = .next t ∧ s.cycle ≤ t.cycle ∧ t.cycle ≤ s.cycle + 1 ∧
    t.completion = s.completion ∧ t.cycle ≤ t.completion

/-- In a running state of the invariant, PAUSE followed by any number of TICKs and then RESUME answers the state itself,
the output reject apart, so that every later instruction sequence continues as if uninterrupted, in the middle of a
freeze too. Rests on R169, R155, R185, R186. -/
def Obligations.PauseTicksResumeLeaveARunningRunAsItWas : Prop :=
  ∀ (s : State) (j : Nat), Inv s → s.running = true →
    runInstrs (.pause :: (List.replicate j .tick ++ [.resume])) s = .next (quiet s)

/-- For every accepted START with FWD_CFG = 0 and every index i of its list: a RAW record has stallCycles 2 if MA1 or MB1,
and otherwise 1, and then MA2 or MB2 holds; a record of kind NONE or WAW has stallCycles 0; ST[i] is that number, 0, 1
or 2. Formalises R126. -/
def Obligations.StallIsTheMaximumOverMatchesWithoutForwarding : Prop :=
  ∀ (ws : List Word) (s : State), s.nmax.admits ws.length = true → s.fwdCfg = false →
    ∃ t, exec (.start ws) s = .next t ∧ ∀ i, i < ws.length → ∃ h, t.hz[i]? = some h ∧ t.st[i]? = some h.stallCycles ∧
      (h.kind = .RAW → (MatchBit t.dec i 1 .RS ∨ MatchBit t.dec i 1 .RT) ∧ h.stallCycles = 2 ∨
        ¬(MatchBit t.dec i 1 .RS ∨ MatchBit t.dec i 1 .RT) ∧ (MatchBit t.dec i 2 .RS ∨ MatchBit t.dec i 2 .RT) ∧
          h.stallCycles = 1) ∧
      (h.kind = .NONE ∨ h.kind = .WAW → h.stallCycles = 0)

/-- For every accepted START: with FWD_CFG = 1 every stall count, ST and TOTAL_STALL are 0 and COMPLETION is N + 4, and
each record differs from the one of the same START under FWD_CFG = 0 in stallCycles alone. (That the governing match
is described the same way under both policies is a decision of the spec, D12, log entry 10; that forwardable does not
depend on the policy is D11, log entry 9.) Rests on R127, R133. -/
def Obligations.ForwardingRemovesEveryStallAndKeepsTheRestOfEachRecord : Prop :=
  ∀ (ws : List Word) (s : State), s.nmax.admits ws.length = true →
    ∃ t u, exec (.start ws) { s with fwdCfg := true } = .next t ∧ exec (.start ws) { s with fwdCfg := false } = .next u ∧
      t.st = List.replicate ws.length 0 ∧ t.totalStall = 0 ∧ t.completion = ws.length + 4 ∧
      t.hz = u.hz.map (fun h => { h with stallCycles := 0 })

/-- Every accepted START answers a next state with TOTAL_STALL the sum of ST[k] over the N entries and COMPLETION = N + 5
- 1 + TOTAL_STALL. Formalises R131. -/
def Obligations.TotalsOfARun : Prop :=
  ∀ (ws : List Word) (s : State), s.nmax.admits ws.length = true →
    ∃ t, exec (.start ws) s = .next t ∧ t.st.length = t.n ∧ t.n = ws.length ∧ t.totalStall = t.st.sum ∧
      t.completion = t.n + 5 - 1 + t.totalStall ∧ t.totalStall = t.completion - (t.n + 5 - 1)

/-- For every accepted START and every examined index i (not 0, not of kind J): HZ[i] is RAW if and only if one of MA1,
MA2, MB1, MB2 is 1; then forwardable is 1, gdist is the least distance with a match, gopnd is RS if RS matches there
and RT otherwise, and greg is the register matched. (forwardable, and the description under forwarding, are decisions
of the spec, D11 and D12; RS before RT is D13.) Rests on R124, R125, R133. -/
def Obligations.RawRecordExactlyOnAMatchNamesTheNearestProducer : Prop :=
  ∀ (ws : List Word) (s : State), s.nmax.admits ws.length = true →
    ∃ t, exec (.start ws) s = .next t ∧ ∀ i, Examined t.dec i → ∃ h c, t.hz[i]? = some h ∧ t.dec[i]? = some c ∧
      (h.kind = .RAW ↔ HasMatch t.dec i) ∧
      (h.kind = .RAW → h.forwardable = true ∧
        (MatchBit t.dec i 1 .RS ∨ MatchBit t.dec i 1 .RT → h.gdist = 1) ∧
        (¬(MatchBit t.dec i 1 .RS ∨ MatchBit t.dec i 1 .RT) → h.gdist = 2) ∧
        MatchBit t.dec i h.gdist h.gopnd ∧ (h.gopnd = .RT → ¬MatchBit t.dec i h.gdist .RS) ∧
        h.greg = sourceField c h.gopnd)

/-- For every accepted START and every examined index i without a match: HZ[i] is WAW if and only if its destination is
not 0 and a producer at distance 1 or 2 writes it; then forwardable is 1, stallCycles 0, gdist the greater such
distance, gopnd RS, greg the destination; otherwise HZ[i] is the NONE record. (gdist with two candidates is a decision
of the spec, D13; the NONE record's forwardable is D11.) Rests on R128, R129. -/
def Obligations.WawRecordExactlyWithoutAMatch : Prop :=
  ∀ (ws : List Word) (s : State), s.nmax.admits ws.length = true →
    ∃ t, exec (.start ws) s = .next t ∧ ∀ i, Examined t.dec i → ¬HasMatch t.dec i → ∃ h c, t.hz[i]? = some h ∧ t.dec[i]? = some c ∧
      (WritesSame t.dec i 1 ∨ WritesSame t.dec i 2 →
        (WritesSame t.dec i 2 → h = ⟨.WAW, true, 0, 2, .RS, c.rd⟩) ∧
        (¬WritesSame t.dec i 2 → h = ⟨.WAW, true, 0, 1, .RS, c.rd⟩)) ∧
      (¬(WritesSame t.dec i 1 ∨ WritesSame t.dec i 2) → h = ⟨.NONE, false, 0, 0, .RS, 0#5⟩)

/-- For every accepted START and every index i of its list that is 0 or of kind J: HZ[i] is the NONE record, EDGES[i] is
empty and ST[i] is 0. (forwardable of a NONE record is a decision of the spec, D11.) Rests on R121, R130. -/
def Obligations.IndexZeroAndJumpWordsAreNeverConsumers : Prop :=
  ∀ (ws : List Word) (s : State), s.nmax.admits ws.length = true →
    ∃ t, exec (.start ws) s = .next t ∧ ∀ i c, t.dec[i]? = some c → (i = 0 ∨ c.kind = .J) →
      t.hz[i]? = some ⟨.NONE, false, 0, 0, .RS, 0#5⟩ ∧ t.edges[i]? = some [] ∧ t.st[i]? = some 0

/-- For two accepted STARTs under the same policy whose lists have the same records at i, i - 1 and i - 2 (those that
exist), HZ[i], EDGES[i] and ST[i] are the same, whatever the other words are. Rests on R122, R133. -/
def Obligations.HazardRecordDependsOnTheWindowAlone : Prop :=
  ∀ (ws ws' : List Word) (s : State) (i : Nat), s.nmax.admits ws.length = true → s.nmax.admits ws'.length = true →
    i < ws.length → i < ws'.length →
    (∀ j, j ≤ i → i ≤ j + 2 → ws[j]?.map decodeRecord = ws'[j]?.map decodeRecord) →
    ∃ t t', exec (.start ws) s = .next t ∧ exec (.start ws') s = .next t' ∧
      t.hz[i]? = t'.hz[i]? ∧ t.edges[i]? = t'.edges[i]? ∧ t.st[i]? = t'.st[i]?

/-- For every accepted START HZ and EDGES have one entry for each index i of its list and no other; for every such i, with
FWD_RUN = 0, or a record that is not RAW, EDGES[i] is empty; with FWD_RUN = 1 it is not empty if and only if the
record is RAW, holds for every distance d and operand o exactly one edge from i - d for o if the match bit is 1 and
none otherwise, and every edge carries the register its producer writes, which is not 0 and is the one the operand
names. (One edge per operand, and the register number as label, are decisions of the spec, D14 and D15.) Rests on
R121, R140, R141, R143, R149. -/
def Obligations.EdgesAreExactlyTheMatchesUnderForwarding : Prop :=
  ∀ (ws : List Word) (s : State), s.nmax.admits ws.length = true →
    ∃ t, exec (.start ws) s = .next t ∧ t.hz.length = ws.length ∧ t.edges.length = ws.length ∧
      ∀ i, i < ws.length → ∃ h es, t.hz[i]? = some h ∧ t.edges[i]? = some es ∧
      (t.fwdRun = false ∨ h.kind ≠ .RAW → es = []) ∧
      (t.fwdRun = true → (es ≠ [] ↔ h.kind = .RAW) ∧
        (∀ d o, Examined t.dec i → MatchBit t.dec i d o →
          es.countP (fun e => e.fromIndex == i - d && e.operand == o) = 1) ∧
        (∀ e ∈ es, e.toIndex = i ∧ MatchBit t.dec i (i - e.fromIndex) e.operand ∧
          ∃ c p, t.dec[i]? = some c ∧ t.dec[e.fromIndex]? = some p ∧ e.registerLabel = p.rd ∧
            e.registerLabel ≠ 0#5 ∧ e.registerLabel = sourceField c e.operand))

/-- For every accepted START, every edge of every index has toStage EX, and fromStage EX with its producer one before the
consumer or MEM with its producer two before it: none goes into ID or MEM, none comes from WB, none spans more than
two positions. Formalises R142. -/
def Obligations.EdgesComeFromEXOrMEMIntoEXWithinTwo : Prop :=
  ∀ (ws : List Word) (s : State), s.nmax.admits ws.length = true →
    ∃ t, exec (.start ws) s = .next t ∧ ∀ (es : List Edge) (e : Edge), es ∈ t.edges → e ∈ es → e.toStage = .EX ∧
      (e.fromStage = .EX ∧ e.toIndex = e.fromIndex + 1 ∨ e.fromStage = .MEM ∧ e.toIndex = e.fromIndex + 2)

/-- For every accepted START and every examined index i: with FWD_RUN = 1 the four mask bits are MA1, MA2, MB1, MB2, and
FSEL is from EX if the distance-1 bit of its operand is set, else from MEM if the distance-2 bit is, else the register
file; with FWD_RUN = 0 the mask and both selects are 0. For every index of the list that is 0 or of kind J, which is
never examined (R121), the mask and both selects are 0 under both policies. (The selects and their priority are
decisions of the spec, D16, log entry 12.) Rests on R121, R140, R144, R145. -/
def Obligations.SelectsFollowTheMatchBitsNearestFirst : Prop :=
  ∀ (ws : List Word) (s : State), s.nmax.admits ws.length = true →
    ∃ t, exec (.start ws) s = .next t ∧ (∀ i, Examined t.dec i →
      ((fwdMask t i).aEX = true ↔ t.fwdRun = true ∧ MatchBit t.dec i 1 .RS) ∧
      ((fwdMask t i).aMEM = true ↔ t.fwdRun = true ∧ MatchBit t.dec i 2 .RS) ∧
      ((fwdMask t i).bEX = true ↔ t.fwdRun = true ∧ MatchBit t.dec i 1 .RT) ∧
      ((fwdMask t i).bMEM = true ↔ t.fwdRun = true ∧ MatchBit t.dec i 2 .RT) ∧
      (fselA t i).code = (if (fwdMask t i).aEX then 1#2 else if (fwdMask t i).aMEM then 2#2 else 0#2) ∧
      (fselB t i).code = (if (fwdMask t i).bEX then 1#2 else if (fwdMask t i).bMEM then 2#2 else 0#2) ∧
      (t.fwdRun = false → (fwdMask t i).code = 0#4 ∧ (fselA t i).code = 0#2 ∧ (fselB t i).code = 0#2)) ∧
      (∀ i c, t.dec[i]? = some c → (i = 0 ∨ c.kind = .J) →
        (fwdMask t i).code = 0#4 ∧ (fselA t i).code = 0#2 ∧ (fselB t i).code = 0#2)

/-- In every state of the invariant: if instruction e is shown in EX the live selects are FSEL_A[e] and FSEL_B[e]; if no
instruction is, or FWD_RUN = 0, both are 0. (The live selects are a decision of the spec, D17.) Rests on R146, R164. -/
def Obligations.LiveSelectsAreThoseOfTheInstructionInEX : Prop :=
  ∀ s : State, Inv s →
    (∀ e : Nat, s.stage[e]? = some .EX → exSelA s = fselA s e ∧ exSelB s = fselB s e) ∧
    ((∀ e : Nat, s.stage[e]? ≠ some .EX) ∨ s.fwdRun = false → exSelA s = .regFile ∧ exSelB s = .regFile)

/-- For two accepted STARTs from one state whose lists have the same length and agree, index by index, in the fields
opcode, rs, rt and, for opcode 0, rd, the states reached differ at most in IW and in DEC.funct: no rule reads an
ignored bit or a funct. Rests on R75, R111. -/
def Obligations.IgnoredBitsOfWordsChangeNothingTheAnalysisShows : Prop :=
  ∀ (ws ws' : List Word) (s : State), s.nmax.admits ws.length = true →
    List.Forall₂ (fun w w' : Word => w.extractLsb' 16 16 = w'.extractLsb' 16 16 ∧
      (w.extractLsb' 26 6 = 0#6 → w.extractLsb' 11 5 = w'.extractLsb' 11 5)) ws ws' →
    ∃ t t', exec (.start ws) s = .next t ∧ exec (.start ws') s = .next t' ∧
      { t' with iw := t.iw, dec := t.dec } = t ∧
      t'.dec.map (fun d => { d with funct := 0#6 }) = t.dec.map (fun d => { d with funct := 0#6 })

/-- Inv State.reset. Rests on R36, R37. -/
def Obligations.InvariantHoldsAtReset : Prop :=
  Inv State.reset

/-- For every state s with Inv s, step s answers a next state t with Inv t: the tables describe IW and FWD_RUN, CYCLE
stays between 1 and COMPLETION in a run, RUNNING and FINISHED never hold together, STAGE is a stage map, a freeze
belongs to one instruction in ID and no trigger is lost. Rests on R37, R58, R166. -/
def Obligations.EveryStepKeepsTheInvariant : Prop :=
  ∀ s : State, Inv s → ∃ t, step s = .next t ∧ Inv t

/-- In every state of the invariant the top-level state is one of the four, and: an accepted START leads to Running from
each; a rejected START, NOP, SETFWD and code 7 keep it; RESET leads to NotStarted; PAUSE leads from Running to Paused
and keeps the others; RESUME leads from Paused to Running and keeps the others; TICK keeps NotStarted, Paused and
Finished, and leads from Running to Running or, on the finishing TICK only, to Finished. (START and PAUSE in every
state are decisions of the spec, D25 and D21, log entry 13; code 7 is D26, log entry 7.) Rests on R190, R206. -/
def Obligations.TransitionTableOfTheTopLevelStates : Prop :=
  ∀ s : State, Inv s → ∃ x, topState s = some x ∧
    (∀ ws, ∃ t, exec (.start ws) s = .next t ∧
      topState t = some (if s.nmax.admits ws.length = true then .Running else x)) ∧
    (∃ t, exec .reset s = .next t ∧ topState t = some .NotStarted) ∧
    (∃ t, exec .pause s = .next t ∧ topState t = some (if x = .Running then .Paused else x)) ∧
    (∃ t, exec .resume s = .next t ∧ topState t = some (if x = .Paused then .Running else x)) ∧
    (∀ en, ∃ t, exec (.setfwd en) s = .next t ∧ topState t = some x) ∧
    (∃ t, exec .nop s = .next t ∧ topState t = some x) ∧
    (∃ t, exec .reserved7 s = .next t ∧ topState t = some x) ∧
    (∃ t, exec .tick s = .next t ∧
      topState t = some (if x = .Running ∧ s.stallRem = 0 ∧ s.cycle = s.completion then .Finished else x))

/-- For every instruction sequence without a START, run from a state and from the same state with another FWD_CFG: both
runs answer next states, and these differ in FWD_CFG at most. Rests on R59, R187, R35. -/
def Obligations.PolicyChangeIsInvisibleUntilTheNextStart : Prop :=
  ∀ (is : List Instr) (s : State) (b : Bool), (∀ ws, .start ws ∉ is) →
    ∃ t t', runInstrs is s = .next t ∧ runInstrs is { s with fwdCfg := b } = .next t' ∧
      { t' with fwdCfg := t.fwdCfg } = t

/-- For every sequence of steps in which the host presents no START and no RESET, N, IW, FWD_RUN, DEC, HZ, EDGES, ST,
TOTAL_STALL and COMPLETION are at its end what they were; and any single step that takes another command than SETFWD
leaves FWD_CFG. Rests on R24, R33, R51, R23. -/
def Obligations.OnlyStartAndResetChangeTheListAndItsAnalysis : Prop :=
  (∀ (k : Nat) (s : State), (∀ p ∈ s.port, p.cmd ≠ 1#3 ∧ p.cmd ≠ 2#3) →
    ∃ t, core.run k s = .next t ∧ t.n = s.n ∧ t.iw = s.iw ∧ t.fwdRun = s.fwdRun ∧ t.dec = s.dec ∧ t.hz = s.hz ∧
      t.edges = s.edges ∧ t.st = s.st ∧ t.totalStall = s.totalStall ∧ t.completion = s.completion) ∧
  (∀ s : State, (takeCommand s).1.cmd ≠ 5#3 → ∃ t, step s = .next t ∧ t.fwdCfg = s.fwdCfg)

/-- With commands p, rest at the port, step is exec of the command p decodes to, in the state whose port holds rest; with
an empty port it is exec of NOP. (The queue is the model's form of the host, log entry 1.) Rests on R180. -/
def Obligations.StepRunsTheDecodedCommand : Prop :=
  (∀ (s : State) (p : PortCommand) (rest : List PortCommand), s.port = p :: rest →
    step s = exec (decodeCommand p) { s with port := rest }) ∧
  (∀ s : State, s.port = [] → step s = exec .nop s)

/-- withFetchWord with a row of 8 bits makes the next step exec of the command with that code; with a row of 32 bits the
next step is exec of START of the list of that one word, after which DEC holds exactly the record that the word's own
meaning contributes. (That a word is placed by a START is the model's own reading, DESIGN CHOICE, log entry 2; that a
row of 8 bits is a command code of which the low 3 bits are read, with idle lanes, is log entry 16, DESIGN CHOICE: R77
gives the codes.) Rests on R51, R77, R100. -/
def Obligations.TableRowPlacedForTheNextStepIsRun : Prop :=
  (∀ (s : State) (c : Nat),
    step (s.withFetchWord 8 c) = exec (decodeCommand (plainCommand (BitVec.ofNat 3 c))) s) ∧
  (∀ (s : State) (w : Nat), step (s.withFetchWord 32 w) = exec (.start [BitVec.ofNat 32 w]) s ∧
    decodeTableWord 32 w = some (decodeWord (BitVec.ofNat 32 w)) ∧
    ∃ t, step (s.withFetchWord 32 w) = .next t ∧ t.running = true ∧
      exec (decodeWord (BitVec.ofNat 32 w)) { s with dec := [] } = .next { s with dec := t.dec })

/-- For every instruction and every state exec answers a next state: there is no fault and no refusal. Rests on R13, R200. -/
def Obligations.NoInstructionFaultsOrIsRefused : Prop :=
  ∀ (i : Instr) (s : State), ∃ t, exec i s = .next t

/-- In every state of the invariant with NMAX = p + 1: every stall count and STALL_REM are at most 2, index 0 never
stalls, TOTAL_STALL is at most 2 * (N - 1), CYCLE is at most COMPLETION, COMPLETION is at most 3 * NMAX + 2, and that
is below 2 to the power ceil(log2(3 * NMAX + 3)). Rests on R8, R37. -/
def Obligations.CountersAreBoundedByTheCapacity : Prop :=
  ∀ (s : State) (p : Nat), Inv s → s.nmax = .upTo p →
    (∀ q ∈ s.st, q ≤ 2) ∧ s.stallRem ≤ 2 ∧ (∀ q, s.st[0]? = some q → q = 0) ∧ s.totalStall ≤ 2 * (s.n - 1) ∧
      s.cycle ≤ s.completion ∧ s.completion ≤ 3 * (p + 1) + 2 ∧ 3 * (p + 1) + 2 < 2 ^ counterBits (p + 1)

/-- In every state of the invariant two hazard records of the run with the same 13-bit packing are the same record:
stallCycles and gdist fit their two bits. (The codes are a decision of the spec, D19.) Rests on R80, R79, R126. -/
def Obligations.PackedHazardRecordsOfARunLoseNothing : Prop :=
  ∀ s : State, Inv s → ∀ h ∈ s.hz, ∀ h' ∈ s.hz, h.pack = h'.pack → h = h'
end

