-- ==== Sys2Proof/Laws/Classifier.lean ====
section
/-! SUPPORT. The classifier and the selector in terms of the four match bits (spec/41_hazard_classifier.md R124): the match list
in its normal form, the governing match and need(i), and what a hazard record and an edge can be. -/

namespace Sys2Proof.Machine

/-! ### Lookups -/

theorem rdAt_of_some {dec : List Decoded} {j : Nat} {p : Decoded} (h : dec[j]? = some p) : rdAt dec j = p.rd := by
  simp [rdAt, h]

theorem exists_of_rdAt_ne_zero {dec : List Decoded} {j : Nat} (h : rdAt dec j ≠ 0#5) :
    ∃ p, dec[j]? = some p ∧ p.rd = rdAt dec j := by
  unfold rdAt at h ⊢
  cases hj : dec[j]? with
  | none => simp [hj] at h
  | some p => exact ⟨p, rfl, rfl⟩

theorem consumerAt_eq_some {dec : List Decoded} {i : Nat} {c : Decoded} :
    consumerAt dec i = some c ↔ dec[i]? = some c ∧ i ≠ 0 ∧ c.kind ≠ .J := by
  unfold consumerAt
  cases h : dec[i]? with
  | none => simp
  | some c' =>
    by_cases hz : i = 0 ∨ c'.kind = .J
    · simp only [hz, if_true, reduceCtorEq, Option.some.injEq, false_iff]
      rintro ⟨rfl, h0, hk⟩
      exact hz.elim h0 hk
    · simp only [hz, if_false, Option.some.injEq]
      constructor
      · rintro rfl
        exact ⟨rfl, fun h => hz (.inl h), fun h => hz (.inr h)⟩
      · rintro ⟨h, -, -⟩
        exact h

theorem examined_iff {dec : List Decoded} {i : Nat} : Examined dec i ↔ ∃ c, consumerAt dec i = some c := by
  simp only [consumerAt_eq_some, Examined]
  constructor
  · rintro ⟨h, c, hc, hk⟩
    exact ⟨c, hc, by omega, hk⟩
  · rintro ⟨c, hc, h, hk⟩
    exact ⟨by omega, c, hc, hk⟩

/-! ### The match bits as Booleans -/

/-- The match bit of consumer `c`, index i, at distance d for operand o, computed (R124). -/
def bit (dec : List Decoded) (c : Decoded) (i d : Nat) (o : Operand) : Bool :=
  decide (d ≤ i ∧ rdAt dec (i - d) ≠ 0#5 ∧ sourceField c o = rdAt dec (i - d))

theorem bit_iff {dec : List Decoded} {c : Decoded} {i d : Nat} {o : Operand} (hc : dec[i]? = some c)
    (hd : d = 1 ∨ d = 2) : bit dec c i d o = true ↔ MatchBit dec i d o := by
  simp only [bit, decide_eq_true_eq, MatchBit]
  constructor
  · rintro ⟨h, h0, hs⟩
    obtain ⟨p, hp, hrd⟩ := exists_of_rdAt_ne_zero h0
    exact ⟨hd, h, c, p, hc, hp, hrd ▸ h0, hs.trans hrd.symm⟩
  · rintro ⟨-, h, c', p, hc', hp, h0, hs⟩
    obtain rfl : c' = c := by simpa [hc] using hc'.symm
    rw [rdAt_of_some hp]
    exact ⟨h, h0, hs⟩

theorem not_bit_iff {dec : List Decoded} {c : Decoded} {i d : Nat} {o : Operand} (hc : dec[i]? = some c)
    (hd : d = 1 ∨ d = 2) : bit dec c i d o = false ↔ ¬MatchBit dec i d o := by
  rw [← bit_iff hc hd]
  simp

/-- M(i) in its scan order: i - 2 before i - 1, RS before RT (R122, R124). -/
theorem matchList_eq_bits {dec : List Decoded} {i : Nat} {c : Decoded} (h : consumerAt dec i = some c) :
    matchList dec i =
      (if bit dec c i 2 .RS then [⟨i - 2, 2, .RS⟩] else []) ++ (if bit dec c i 2 .RT then [⟨i - 2, 2, .RT⟩] else []) ++
      ((if bit dec c i 1 .RS then [⟨i - 1, 1, .RS⟩] else []) ++ (if bit dec c i 1 .RT then [⟨i - 1, 1, .RT⟩] else [])) := by
  have hi : i ≠ 0 := (consumerAt_eq_some.mp h).2.1
  have h1 : 1 ≤ i := by omega
  have hat : ∀ d, d ≤ i → matchesAt dec c i (i - d) =
      (if bit dec c i d .RS then [⟨i - d, d, .RS⟩] else []) ++ (if bit dec c i d .RT then [⟨i - d, d, .RT⟩] else []) := by
    intro d hd
    have hsub : i - (i - d) = d := by omega
    unfold matchesAt bit
    by_cases h0 : rdAt dec (i - d) = 0#5 <;> simp [h0, hd, hsub, sourceField]
  unfold matchList window
  rw [h]
  by_cases h2 : 2 ≤ i
  · simp [h2, h1, hat 2 h2, hat 1 h1]
  · have hb : ∀ o, bit dec c i 2 o = false := fun o => by simp [bit, h2]
    simp [h2, h1, hat 1 h1, hb]

/-- The governing match of a match list in normal form: nearest first, RS before RT (R125). -/
theorem governing_of_bits (j2 j1 : Nat) (a2 b2 a1 b1 : Bool) :
    governing ((if a2 then [⟨j2, 2, .RS⟩] else []) ++ (if b2 then [⟨j2, 2, .RT⟩] else []) ++
      ((if a1 then [⟨j1, 1, .RS⟩] else []) ++ (if b1 then [⟨j1, 1, .RT⟩] else []))) =
      (if a1 then some ⟨j1, 1, .RS⟩ else if b1 then some ⟨j1, 1, .RT⟩
       else if a2 then some ⟨j2, 2, .RS⟩ else if b2 then some ⟨j2, 2, .RT⟩ else none) := by
  cases a2 <;> cases b2 <;> cases a1 <;> cases b1 <;> rfl

/-- need(i) of a match list in normal form: 2 with a match at distance 1, else 1 with one at distance 2 (R126). -/
theorem need_of_bits (j2 j1 : Nat) (a2 b2 a1 b1 : Bool) :
    need ((if a2 then [⟨j2, 2, .RS⟩] else []) ++ (if b2 then [⟨j2, 2, .RT⟩] else []) ++
      ((if a1 then [⟨j1, 1, .RS⟩] else []) ++ (if b1 then [⟨j1, 1, .RT⟩] else []))) =
      (if a1 || b1 then 2 else if a2 || b2 then 1 else 0) := by
  cases a2 <;> cases b2 <;> cases a1 <;> cases b1 <;> rfl

theorem matchList_of_not_consumer {dec : List Decoded} {i : Nat} (h : consumerAt dec i = none) : matchList dec i = [] := by
  simp [matchList, h]

/-- An element of M(i) is a match bit that is 1, of an examined index (R124). -/
theorem mem_matchList {dec : List Decoded} {i : Nat} {m : Match} :
    m ∈ matchList dec i ↔ Examined dec i ∧ MatchBit dec i m.d m.operand ∧ m.j = i - m.d := by
  cases hc : consumerAt dec i with
  | none =>
    have : ¬Examined dec i := by simp [examined_iff, hc]
    simp [matchList_of_not_consumer hc, this]
  | some c =>
    have hx : Examined dec i := examined_iff.mpr ⟨c, hc⟩
    have hi := (consumerAt_eq_some.mp hc).1
    obtain ⟨j, d, o⟩ := m
    simp only [hx, true_and, matchList_eq_bits hc]
    constructor
    · intro h
      simp only [List.mem_append, List.mem_ite_nil_right, List.mem_singleton, Match.mk.injEq] at h
      rcases h with (⟨hb, rfl, rfl, rfl⟩ | ⟨hb, rfl, rfl, rfl⟩) | (⟨hb, rfl, rfl, rfl⟩ | ⟨hb, rfl, rfl, rfl⟩)
      all_goals exact ⟨(bit_iff hi (by simp)).mp hb, rfl⟩
    · rintro ⟨hb, rfl⟩
      have hd := hb.1
      have hb' := (bit_iff hi hd).mpr hb
      rcases hd with rfl | rfl <;> cases o <;> simp [hb']

/-- An index that is not examined has no match bit in the mask, whatever its fields are (R121, R144). -/
theorem matchBit_of_not_consumer {dec : List Decoded} {i : Nat} (h : consumerAt dec i = none) (d : Nat) (o : Operand) :
    matchBit dec i d o = false := by
  simp [matchBit, matchList_of_not_consumer h]

theorem matchBit_eq_true {dec : List Decoded} {i d : Nat} {o : Operand} :
    matchBit dec i d o = true ↔ Examined dec i ∧ MatchBit dec i d o := by
  simp only [matchBit, List.any_eq_true, Bool.and_eq_true, beq_iff_eq, mem_matchList]
  constructor
  · rintro ⟨m, ⟨hx, hb, -⟩, rfl, rfl⟩
    exact ⟨hx, hb⟩
  · rintro ⟨hx, hb⟩
    exact ⟨⟨i - d, d, o⟩, ⟨hx, hb, rfl⟩, rfl, rfl⟩

/-- M(i) is not empty exactly when one of the four computed bits is 1 (R124). -/
theorem hasMatch_iff {dec : List Decoded} {i : Nat} {c : Decoded} (hc : dec[i]? = some c) :
    HasMatch dec i ↔ (bit dec c i 1 .RS = true ∨ bit dec c i 1 .RT = true ∨ bit dec c i 2 .RS = true ∨
      bit dec c i 2 .RT = true) := by
  rw [bit_iff hc (by simp), bit_iff hc (by simp), bit_iff hc (by simp), bit_iff hc (by simp)]
  constructor
  · rintro ⟨d, o, h⟩
    rcases h.1 with rfl | rfl <;> cases o <;> simp [h]
  · rintro (h | h | h | h) <;> exact ⟨_, _, h⟩

/-- The producer at distance d writes the consumer's destination, computed (R128). -/
theorem writesSame_iff {dec : List Decoded} {i d : Nat} {c : Decoded} (hc : dec[i]? = some c) (hd : d = 1 ∨ d = 2) :
    WritesSame dec i d ↔ d ≤ i ∧ c.rd ≠ 0#5 ∧ rdAt dec (i - d) = c.rd := by
  constructor
  · rintro ⟨-, h, c', p, hc', hp, h0, hs⟩
    obtain rfl : c' = c := by simpa [hc] using hc'.symm
    exact ⟨h, h0, by rw [rdAt_of_some hp, hs]⟩
  · rintro ⟨h, h0, hs⟩
    obtain ⟨p, hp, hr⟩ := exists_of_rdAt_ne_zero (hs ▸ h0)
    exact ⟨hd, h, c, p, hc, hp, h0, hr.trans hs⟩

/-! ### Edges -/

theorem edgesAt_of_not_consumer {dec : List Decoded} {fwd : Bool} {i : Nat} (h : consumerAt dec i = none) :
    edgesAt dec fwd i = [] := by
  simp [edgesAt, matchList_of_not_consumer h]

/-- All an edge can be: that of a match bit of an examined index, under forwarding (R140, R141). -/
theorem mem_edgesAt {dec : List Decoded} {fwd : Bool} {i : Nat} {e : Edge} :
    e ∈ edgesAt dec fwd i ↔ fwd = true ∧ Examined dec i ∧
      ∃ d o, MatchBit dec i d o ∧ e = ⟨i - d, i, fromStageOf d, .EX, rdAt dec (i - d), o⟩ := by
  unfold edgesAt
  cases fwd with
  | false => simp
  | true =>
    simp only [if_true, List.mem_map, mem_matchList, true_and]
    constructor
    · rintro ⟨m, ⟨hx, hb, hj⟩, rfl⟩
      exact ⟨hx, m.d, m.operand, hb, by rw [← hj]; rfl⟩
    · rintro ⟨hx, d, o, hb, rfl⟩
      exact ⟨⟨i - d, d, o⟩, ⟨hx, hb, rfl⟩, rfl⟩

/-! ### Hazard records -/

/-- An index that is not examined has the NONE record (R121). -/
theorem hazardRecord_of_not_consumer {dec : List Decoded} {fwd : Bool} {i : Nat} (h : consumerAt dec i = none) :
    hazardRecord dec fwd i = noneRecord := by
  simp [hazardRecord, h]

/-- The record of an examined index in terms of its match bits (R125 to R129). -/
theorem hazardRecord_eq_bits {dec : List Decoded} {fwd : Bool} {i : Nat} {c : Decoded} (h : consumerAt dec i = some c) :
    hazardRecord dec fwd i =
      (if bit dec c i 1 .RS then ⟨.RAW, true, if fwd then 0 else 2, 1, .RS, rdAt dec (i - 1)⟩
       else if bit dec c i 1 .RT then ⟨.RAW, true, if fwd then 0 else 2, 1, .RT, rdAt dec (i - 1)⟩
       else if bit dec c i 2 .RS then ⟨.RAW, true, if fwd then 0 else 1, 2, .RS, rdAt dec (i - 2)⟩
       else if bit dec c i 2 .RT then ⟨.RAW, true, if fwd then 0 else 1, 2, .RT, rdAt dec (i - 2)⟩
       else unmatchedRecord dec c i) := by
  unfold hazardRecord
  rw [h]
  simp only [matchList_eq_bits h, governing_of_bits, rawRecord, need_of_bits]
  cases bit dec c i 1 .RS <;> cases bit dec c i 1 .RT <;> cases bit dec c i 2 .RS <;> cases bit dec c i 2 .RT <;> simp

/-- A producer of the WAW window is at distance 1 or 2 (R122, R128). -/
theorem wawProducer_distance {dec : List Decoded} {c : Decoded} {i j : Nat} (h : wawProducer dec c i = some j) :
    i - j = 1 ∨ i - j = 2 := by
  unfold wawProducer at h
  split at h
  · cases h
  · have hm := List.mem_of_find?_eq_some h
    unfold window at hm
    simp only [List.mem_append, List.mem_ite_nil_right, List.mem_singleton] at hm
    omega

/-- A record without a match is WAW or NONE, has no stall and a distance of at most 2 (R128, R129). -/
theorem unmatchedRecord_cases (dec : List Decoded) (c : Decoded) (i : Nat) :
    (unmatchedRecord dec c i).kind ≠ .RAW ∧ (unmatchedRecord dec c i).stallCycles = 0 ∧
      (unmatchedRecord dec c i).gdist ≤ 2 := by
  unfold unmatchedRecord
  cases h : wawProducer dec c i with
  | none => simp [noneRecord]
  | some j =>
    have := wawProducer_distance h
    simp only [wawRecord]
    refine ⟨by simp, by simp, ?_⟩
    omega

/-- A record has at most 2 stall cycles and its distance is at most 2 (R126, R30). -/
theorem hazardRecord_bounds (dec : List Decoded) (fwd : Bool) (i : Nat) :
    (hazardRecord dec fwd i).stallCycles ≤ 2 ∧ (hazardRecord dec fwd i).gdist ≤ 2 := by
  cases hc : consumerAt dec i with
  | none => simp [hazardRecord_of_not_consumer hc, noneRecord]
  | some c =>
    obtain ⟨-, h1, h2⟩ := unmatchedRecord_cases dec c i
    rw [hazardRecord_eq_bits hc]
    cases bit dec c i 1 .RS <;> cases bit dec c i 1 .RT <;> cases bit dec c i 2 .RS <;> cases bit dec c i 2 .RT <;>
      cases fwd <;> simp [h1, h2]

/-- Under forwarding a record is the one of the other policy with no stall (R127). -/
theorem hazardRecord_forwarding (dec : List Decoded) (i : Nat) :
    hazardRecord dec true i = { hazardRecord dec false i with stallCycles := 0 } := by
  cases hc : consumerAt dec i with
  | none => simp [hazardRecord_of_not_consumer hc, noneRecord]
  | some c =>
    rw [hazardRecord_eq_bits hc, hazardRecord_eq_bits hc]
    cases bit dec c i 1 .RS <;> cases bit dec c i 1 .RT <;> cases bit dec c i 2 .RS <;> cases bit dec c i 2 .RT <;> simp
    unfold unmatchedRecord
    cases wawProducer dec c i <;> rfl

/-! ### Tables -/

@[simp] theorem analyzeHazards_length (n : Nat) (dec : List Decoded) (fwd : Bool) :
    (analyzeHazards n dec fwd).length = n := by simp [analyzeHazards]

@[simp] theorem analyzeEdges_length (n : Nat) (dec : List Decoded) (fwd : Bool) :
    (analyzeEdges n dec fwd).length = n := by simp [analyzeEdges]

@[simp] theorem analyzeStalls_length (n : Nat) (dec : List Decoded) (fwd : Bool) :
    (analyzeStalls n dec fwd).length = n := by simp [analyzeStalls]

theorem analyzeHazards_getElem? {n i : Nat} (dec : List Decoded) (fwd : Bool) (h : i < n) :
    (analyzeHazards n dec fwd)[i]? = some (hazardRecord dec fwd i) := by
  simp [analyzeHazards, h]

theorem analyzeEdges_getElem? {n i : Nat} (dec : List Decoded) (fwd : Bool) (h : i < n) :
    (analyzeEdges n dec fwd)[i]? = some (edgesAt dec fwd i) := by
  simp [analyzeEdges, h]

theorem analyzeStalls_getElem? {n i : Nat} (dec : List Decoded) (fwd : Bool) (h : i < n) :
    (analyzeStalls n dec fwd)[i]? = some (hazardRecord dec fwd i).stallCycles := by
  simp [analyzeStalls, analyzeHazards, h]

/-- Every stall count is 0, 1 or 2 (R126). -/
theorem analyzeStalls_le_two {n : Nat} {dec : List Decoded} {fwd : Bool} {q : Nat}
    (h : q ∈ analyzeStalls n dec fwd) : q ≤ 2 := by
  simp only [analyzeStalls, analyzeHazards, List.map_map, List.mem_map, Function.comp] at h
  obtain ⟨i, -, rfl⟩ := h
  exact (hazardRecord_bounds dec fwd i).1

/-- Index 0 never stalls (R130). -/
theorem analyzeStalls_zero {n : Nat} {dec : List Decoded} {fwd : Bool} {q : Nat}
    (h : (analyzeStalls n dec fwd)[0]? = some q) : q = 0 := by
  have hn : 0 < n := by
    by_contra hn
    simp [List.getElem?_eq_none (l := analyzeStalls n dec fwd) (i := 0) (by simp; omega)] at h
  rw [analyzeStalls_getElem? dec fwd hn] at h
  have hc : consumerAt dec 0 = none := by
    cases hc : consumerAt dec 0 with
    | none => rfl
    | some c => exact absurd rfl (consumerAt_eq_some.mp hc).2.1
  rw [hazardRecord_of_not_consumer hc] at h
  simpa [noneRecord] using h.symm

end Sys2Proof.Machine
end

