-- ==== Sys2Proof/Laws/Words.lean ====
section
/-! SUPPORT. The numbers behind the bit fields of a word (spec/00_scope.md R9): what each field extraction reads, what packing
writes, and that the one undoes the other. -/

namespace Sys2Proof

theorem toNat_append_eq {n m : Nat} (x : BitVec n) (y : BitVec m) :
    (x ++ y).toNat = x.toNat * 2 ^ m + y.toNat := by
  rw [BitVec.toNat_append, ← Nat.shiftLeft_add_eq_or_of_lt y.isLt, Nat.shiftLeft_eq]

theorem packI_toNat (op : Opcode) (rs rt : RegNum) (low : BitVec 16) :
    (packI op rs rt low).toNat = op.toNat * 2 ^ 26 + rs.toNat * 2 ^ 21 + rt.toNat * 2 ^ 16 + low.toNat := by
  have h : (packI op rs rt low).toNat = (op ++ rs ++ rt ++ low).toNat := rfl
  rw [h, toNat_append_eq, toNat_append_eq, toNat_append_eq]
  omega

theorem packR_toNat (rs rt rd : RegNum) (u : BitVec 5) (fn : BitVec 6) :
    (packR rs rt rd u fn).toNat =
      rs.toNat * 2 ^ 21 + rt.toNat * 2 ^ 16 + rd.toNat * 2 ^ 11 + u.toNat * 2 ^ 6 + fn.toNat := by
  have h : (packR rs rt rd u fn).toNat = (0#6 ++ rs ++ rt ++ rd ++ u ++ fn).toNat := rfl
  rw [h, toNat_append_eq, toNat_append_eq, toNat_append_eq, toNat_append_eq, toNat_append_eq]
  simp only [BitVec.toNat_ofNat, Nat.zero_mod]
  omega

theorem opcodeOf_toNat (w : Word) : (opcodeOf w).toNat = w.toNat / 2 ^ 26 := by
  have := w.isLt
  simp only [opcodeOf, BitVec.extractLsb'_toNat, Nat.shiftRight_eq_div_pow]
  omega

theorem rsOf_toNat (w : Word) : (rsOf w).toNat = w.toNat / 2 ^ 21 % 32 := by
  simp only [rsOf, BitVec.extractLsb'_toNat, Nat.shiftRight_eq_div_pow]

theorem rtOf_toNat (w : Word) : (rtOf w).toNat = w.toNat / 2 ^ 16 % 32 := by
  simp only [rtOf, BitVec.extractLsb'_toNat, Nat.shiftRight_eq_div_pow]

theorem rdFieldOf_toNat (w : Word) : (rdFieldOf w).toNat = w.toNat / 2 ^ 11 % 32 := by
  simp only [rdFieldOf, BitVec.extractLsb'_toNat, Nat.shiftRight_eq_div_pow]

theorem unnamedOf_toNat (w : Word) : (unnamedOf w).toNat = w.toNat / 2 ^ 6 % 32 := by
  simp only [unnamedOf, BitVec.extractLsb'_toNat, Nat.shiftRight_eq_div_pow]

theorem functOf_toNat (w : Word) : (functOf w).toNat = w.toNat % 64 := by
  simp [functOf]

theorem lowOf_toNat (w : Word) : (lowOf w).toNat = w.toNat % 2 ^ 16 := by
  simp [lowOf]

section
variable (op : Opcode) (rs rt rd : RegNum) (low : BitVec 16) (u : BitVec 5) (fn : BitVec 6)

@[simp] theorem opcodeOf_packI : opcodeOf (packI op rs rt low) = op := by
  apply BitVec.eq_of_toNat_eq
  rw [opcodeOf_toNat, packI_toNat]
  omega

@[simp] theorem rsOf_packI : rsOf (packI op rs rt low) = rs := by
  apply BitVec.eq_of_toNat_eq
  rw [rsOf_toNat, packI_toNat]
  omega

@[simp] theorem rtOf_packI : rtOf (packI op rs rt low) = rt := by
  apply BitVec.eq_of_toNat_eq
  rw [rtOf_toNat, packI_toNat]
  omega

@[simp] theorem lowOf_packI : lowOf (packI op rs rt low) = low := by
  apply BitVec.eq_of_toNat_eq
  rw [lowOf_toNat, packI_toNat]
  omega

@[simp] theorem opcodeOf_packR : opcodeOf (packR rs rt rd u fn) = 0#6 := by
  apply BitVec.eq_of_toNat_eq
  rw [opcodeOf_toNat, packR_toNat]
  simp only [BitVec.toNat_ofNat, Nat.zero_mod]
  omega

@[simp] theorem rsOf_packR : rsOf (packR rs rt rd u fn) = rs := by
  apply BitVec.eq_of_toNat_eq
  rw [rsOf_toNat, packR_toNat]
  omega

@[simp] theorem rtOf_packR : rtOf (packR rs rt rd u fn) = rt := by
  apply BitVec.eq_of_toNat_eq
  rw [rtOf_toNat, packR_toNat]
  omega

@[simp] theorem rdFieldOf_packR : rdFieldOf (packR rs rt rd u fn) = rd := by
  apply BitVec.eq_of_toNat_eq
  rw [rdFieldOf_toNat, packR_toNat]
  omega

@[simp] theorem unnamedOf_packR : unnamedOf (packR rs rt rd u fn) = u := by
  apply BitVec.eq_of_toNat_eq
  rw [unnamedOf_toNat, packR_toNat]
  omega

@[simp] theorem functOf_packR : functOf (packR rs rt rd u fn) = fn := by
  apply BitVec.eq_of_toNat_eq
  rw [functOf_toNat, packR_toNat]
  omega

end

/-- A word is its opcode, rs, rt and low half (R71). -/
theorem packI_of_fields (w : Word) : packI (opcodeOf w) (rsOf w) (rtOf w) (lowOf w) = w := by
  apply BitVec.eq_of_toNat_eq
  rw [packI_toNat, opcodeOf_toNat, rsOf_toNat, rtOf_toNat, lowOf_toNat]
  omega

/-- A word of opcode 0 is its five other fields (R71). -/
theorem packR_of_fields (w : Word) (h : opcodeOf w = 0#6) :
    packR (rsOf w) (rtOf w) (rdFieldOf w) (unnamedOf w) (functOf w) = w := by
  have h0 : (opcodeOf w).toNat = 0 := by rw [h]; rfl
  rw [opcodeOf_toNat] at h0
  apply BitVec.eq_of_toNat_eq
  rw [packR_toNat, rsOf_toNat, rtOf_toNat, rdFieldOf_toNat, unnamedOf_toNat, functOf_toNat]
  omega

end Sys2Proof
end

