-- ==== Sys2Proof/Laws/Records.lean ====
section
/-! SUPPORT. The decoder over a raw word (spec/40_decode.md R100) gives the record of the word's class (R101 to R106), and the
meaning of a word contributes it. -/

namespace Sys2Proof.Machine

section
variable (op : Opcode) (rs rt rd : RegNum) (low : BitVec 16) (u : BitVec 5) (fn : BitVec 6)

theorem decodeRecord_packR : decodeRecord (packR rs rt rd u fn) = recordR rs rt rd u fn := by
  simp [decodeRecord, effectiveDest, functField, recordR, kindOf, Config.opcR]

theorem decodeRecord_packJ : decodeRecord (packI 2#6 rs rt low) = recordJ rs rt low := by
  simp [decodeRecord, effectiveDest, functField, recordJ, kindOf, Config.opcR, Config.opcJ, Config.opcJL]

theorem decodeRecord_packJL : decodeRecord (packI 3#6 rs rt low) = recordJL rs rt low := by
  simp [decodeRecord, effectiveDest, functField, recordJL, kindOf, Config.opcR, Config.opcJ, Config.opcJL, Config.linkReg]

theorem decodeRecord_packIA (hk : kindOf op = .I) (h : inImmRange op = true) :
    decodeRecord (packI op rs rt low) = recordIA op rs rt low := by
  simp [decodeRecord, effectiveDest, functField, recordIA, hk, h]

theorem decodeRecord_packIL (hk : kindOf op = .I) (h : inLoadRange op = true) :
    decodeRecord (packI op rs rt low) = recordIL op rs rt low := by
  simp [decodeRecord, effectiveDest, functField, recordIL, hk, h]

theorem decodeRecord_packIN (hk : kindOf op = .I) (h : inImmRange op = false) (h' : inLoadRange op = false) :
    decodeRecord (packI op rs rt low) = recordIN op rs rt low := by
  simp [decodeRecord, effectiveDest, functField, recordIN, hk, h, h']

end

/-- The meaning of the instruction a word decodes to contributes the word's record to DEC and does nothing else. -/
theorem exec_decodeWord (w : Word) (s : State) :
    exec (decodeWord w) s = .next (contribute (decodeRecord w) s) := by
  have hlt : (opcodeOf w).toNat < 64 := (opcodeOf w).isLt
  have hop : opcodeOf w = BitVec.ofNat 6 (opcodeOf w).toNat := by simp
  have hI : decodeRecord w = decodeRecord (packI (opcodeOf w) (rsOf w) (rtOf w) (lowOf w)) := by rw [packI_of_fields]
  have hR := packR_of_fields w
  delta decodeWord
  generalize (opcodeOf w).toNat = p at hlt hop
  rw [hop] at hI hR
  interval_cases p
  · have h0 : decodeRecord w = recordR (rsOf w) (rtOf w) (rdFieldOf w) (unnamedOf w) (functOf w) := by
      rw [← decodeRecord_packR, hR rfl]
    rw [h0]
    rfl
  all_goals
    rw [hI]
    first
    | rw [decodeRecord_packJ]; rfl
    | rw [decodeRecord_packJL]; rfl
    | rw [decodeRecord_packIA _ _ _ _ (by decide) (by decide)]; rfl
    | rw [decodeRecord_packIL _ _ _ _ (by decide) (by decide)]; rfl
    | rw [decodeRecord_packIN _ _ _ _ (by decide) (by decide) (by decide)]; rfl

end Sys2Proof.Machine
end

