-- ==== Sys2Proof/Laws/State.lean ====
section
/-! SUPPORT. What each update of State does to each field it does not write, so that no proof unfolds a record update. -/

namespace Sys2Proof.Machine

@[simp] theorem contribute_fwdCfg (d : Decoded) (s : State) : (contribute d s).fwdCfg = s.fwdCfg := rfl
@[simp] theorem contribute_n (d : Decoded) (s : State) : (contribute d s).n = s.n := rfl
@[simp] theorem contribute_iw (d : Decoded) (s : State) : (contribute d s).iw = s.iw := rfl
@[simp] theorem contribute_fwdRun (d : Decoded) (s : State) : (contribute d s).fwdRun = s.fwdRun := rfl
@[simp] theorem contribute_cycle (d : Decoded) (s : State) : (contribute d s).cycle = s.cycle := rfl
@[simp] theorem contribute_stallRem (d : Decoded) (s : State) : (contribute d s).stallRem = s.stallRem := rfl
@[simp] theorem contribute_running (d : Decoded) (s : State) : (contribute d s).running = s.running := rfl
@[simp] theorem contribute_finished (d : Decoded) (s : State) : (contribute d s).finished = s.finished := rfl
@[simp] theorem contribute_stage (d : Decoded) (s : State) : (contribute d s).stage = s.stage := rfl
@[simp] theorem contribute_dec (d : Decoded) (s : State) : (contribute d s).dec = s.dec ++ [d] := rfl
@[simp] theorem contribute_hz (d : Decoded) (s : State) : (contribute d s).hz = s.hz := rfl
@[simp] theorem contribute_edges (d : Decoded) (s : State) : (contribute d s).edges = s.edges := rfl
@[simp] theorem contribute_st (d : Decoded) (s : State) : (contribute d s).st = s.st := rfl
@[simp] theorem contribute_totalStall (d : Decoded) (s : State) : (contribute d s).totalStall = s.totalStall := rfl
@[simp] theorem contribute_completion (d : Decoded) (s : State) : (contribute d s).completion = s.completion := rfl
@[simp] theorem contribute_nmax (d : Decoded) (s : State) : (contribute d s).nmax = s.nmax := rfl
@[simp] theorem contribute_port (d : Decoded) (s : State) : (contribute d s).port = s.port := rfl
@[simp] theorem contribute_reject (d : Decoded) (s : State) : (contribute d s).reject = s.reject := rfl

@[simp] theorem noChange_fwdCfg (s : State) : (noChange s).fwdCfg = s.fwdCfg := rfl
@[simp] theorem noChange_n (s : State) : (noChange s).n = s.n := rfl
@[simp] theorem noChange_iw (s : State) : (noChange s).iw = s.iw := rfl
@[simp] theorem noChange_fwdRun (s : State) : (noChange s).fwdRun = s.fwdRun := rfl
@[simp] theorem noChange_cycle (s : State) : (noChange s).cycle = s.cycle := rfl
@[simp] theorem noChange_stallRem (s : State) : (noChange s).stallRem = s.stallRem := rfl
@[simp] theorem noChange_running (s : State) : (noChange s).running = s.running := rfl
@[simp] theorem noChange_finished (s : State) : (noChange s).finished = s.finished := rfl
@[simp] theorem noChange_stage (s : State) : (noChange s).stage = s.stage := rfl
@[simp] theorem noChange_dec (s : State) : (noChange s).dec = s.dec := rfl
@[simp] theorem noChange_hz (s : State) : (noChange s).hz = s.hz := rfl
@[simp] theorem noChange_edges (s : State) : (noChange s).edges = s.edges := rfl
@[simp] theorem noChange_st (s : State) : (noChange s).st = s.st := rfl
@[simp] theorem noChange_totalStall (s : State) : (noChange s).totalStall = s.totalStall := rfl
@[simp] theorem noChange_completion (s : State) : (noChange s).completion = s.completion := rfl
@[simp] theorem noChange_nmax (s : State) : (noChange s).nmax = s.nmax := rfl
@[simp] theorem noChange_port (s : State) : (noChange s).port = s.port := rfl
@[simp] theorem noChange_reject (s : State) : (noChange s).reject = false := rfl

@[simp] theorem rejectStart_fwdCfg (s : State) : (rejectStart s).fwdCfg = s.fwdCfg := rfl
@[simp] theorem rejectStart_n (s : State) : (rejectStart s).n = s.n := rfl
@[simp] theorem rejectStart_iw (s : State) : (rejectStart s).iw = s.iw := rfl
@[simp] theorem rejectStart_fwdRun (s : State) : (rejectStart s).fwdRun = s.fwdRun := rfl
@[simp] theorem rejectStart_cycle (s : State) : (rejectStart s).cycle = s.cycle := rfl
@[simp] theorem rejectStart_stallRem (s : State) : (rejectStart s).stallRem = s.stallRem := rfl
@[simp] theorem rejectStart_running (s : State) : (rejectStart s).running = s.running := rfl
@[simp] theorem rejectStart_finished (s : State) : (rejectStart s).finished = s.finished := rfl
@[simp] theorem rejectStart_stage (s : State) : (rejectStart s).stage = s.stage := rfl
@[simp] theorem rejectStart_dec (s : State) : (rejectStart s).dec = s.dec := rfl
@[simp] theorem rejectStart_hz (s : State) : (rejectStart s).hz = s.hz := rfl
@[simp] theorem rejectStart_edges (s : State) : (rejectStart s).edges = s.edges := rfl
@[simp] theorem rejectStart_st (s : State) : (rejectStart s).st = s.st := rfl
@[simp] theorem rejectStart_totalStall (s : State) : (rejectStart s).totalStall = s.totalStall := rfl
@[simp] theorem rejectStart_completion (s : State) : (rejectStart s).completion = s.completion := rfl
@[simp] theorem rejectStart_nmax (s : State) : (rejectStart s).nmax = s.nmax := rfl
@[simp] theorem rejectStart_port (s : State) : (rejectStart s).port = s.port := rfl
@[simp] theorem rejectStart_reject (s : State) : (rejectStart s).reject = true := rfl

@[simp] theorem tickFrozen_fwdCfg (s : State) : (tickFrozen s).fwdCfg = s.fwdCfg := rfl
@[simp] theorem tickFrozen_n (s : State) : (tickFrozen s).n = s.n := rfl
@[simp] theorem tickFrozen_iw (s : State) : (tickFrozen s).iw = s.iw := rfl
@[simp] theorem tickFrozen_fwdRun (s : State) : (tickFrozen s).fwdRun = s.fwdRun := rfl
@[simp] theorem tickFrozen_cycle (s : State) : (tickFrozen s).cycle = s.cycle + 1 := rfl
@[simp] theorem tickFrozen_stallRem (s : State) : (tickFrozen s).stallRem = s.stallRem - 1 := rfl
@[simp] theorem tickFrozen_running (s : State) : (tickFrozen s).running = s.running := rfl
@[simp] theorem tickFrozen_finished (s : State) : (tickFrozen s).finished = s.finished := rfl
@[simp] theorem tickFrozen_stage (s : State) : (tickFrozen s).stage = s.stage := rfl
@[simp] theorem tickFrozen_dec (s : State) : (tickFrozen s).dec = s.dec := rfl
@[simp] theorem tickFrozen_hz (s : State) : (tickFrozen s).hz = s.hz := rfl
@[simp] theorem tickFrozen_edges (s : State) : (tickFrozen s).edges = s.edges := rfl
@[simp] theorem tickFrozen_st (s : State) : (tickFrozen s).st = s.st := rfl
@[simp] theorem tickFrozen_totalStall (s : State) : (tickFrozen s).totalStall = s.totalStall := rfl
@[simp] theorem tickFrozen_completion (s : State) : (tickFrozen s).completion = s.completion := rfl
@[simp] theorem tickFrozen_nmax (s : State) : (tickFrozen s).nmax = s.nmax := rfl
@[simp] theorem tickFrozen_port (s : State) : (tickFrozen s).port = s.port := rfl
@[simp] theorem tickFrozen_reject (s : State) : (tickFrozen s).reject = false := rfl

@[simp] theorem tickOrdinary_fwdCfg (s : State) : (tickOrdinary s).fwdCfg = s.fwdCfg := rfl
@[simp] theorem tickOrdinary_n (s : State) : (tickOrdinary s).n = s.n := rfl
@[simp] theorem tickOrdinary_iw (s : State) : (tickOrdinary s).iw = s.iw := rfl
@[simp] theorem tickOrdinary_fwdRun (s : State) : (tickOrdinary s).fwdRun = s.fwdRun := rfl
@[simp] theorem tickOrdinary_cycle (s : State) : (tickOrdinary s).cycle = s.cycle + 1 := rfl
@[simp] theorem tickOrdinary_stallRem (s : State) : (tickOrdinary s).stallRem = trigger s.n s.st (s.cycle + 1) := rfl
@[simp] theorem tickOrdinary_running (s : State) : (tickOrdinary s).running = s.running := rfl
@[simp] theorem tickOrdinary_finished (s : State) : (tickOrdinary s).finished = s.finished := rfl
@[simp] theorem tickOrdinary_stage (s : State) : (tickOrdinary s).stage = stageMap s.n s.st (s.cycle + 1) := rfl
@[simp] theorem tickOrdinary_dec (s : State) : (tickOrdinary s).dec = s.dec := rfl
@[simp] theorem tickOrdinary_hz (s : State) : (tickOrdinary s).hz = s.hz := rfl
@[simp] theorem tickOrdinary_edges (s : State) : (tickOrdinary s).edges = s.edges := rfl
@[simp] theorem tickOrdinary_st (s : State) : (tickOrdinary s).st = s.st := rfl
@[simp] theorem tickOrdinary_totalStall (s : State) : (tickOrdinary s).totalStall = s.totalStall := rfl
@[simp] theorem tickOrdinary_completion (s : State) : (tickOrdinary s).completion = s.completion := rfl
@[simp] theorem tickOrdinary_nmax (s : State) : (tickOrdinary s).nmax = s.nmax := rfl
@[simp] theorem tickOrdinary_port (s : State) : (tickOrdinary s).port = s.port := rfl
@[simp] theorem tickOrdinary_reject (s : State) : (tickOrdinary s).reject = false := rfl

@[simp] theorem tickFinish_fwdCfg (s : State) : (tickFinish s).fwdCfg = s.fwdCfg := rfl
@[simp] theorem tickFinish_n (s : State) : (tickFinish s).n = s.n := rfl
@[simp] theorem tickFinish_iw (s : State) : (tickFinish s).iw = s.iw := rfl
@[simp] theorem tickFinish_fwdRun (s : State) : (tickFinish s).fwdRun = s.fwdRun := rfl
@[simp] theorem tickFinish_cycle (s : State) : (tickFinish s).cycle = s.completion := rfl
@[simp] theorem tickFinish_stallRem (s : State) : (tickFinish s).stallRem = 0 := rfl
@[simp] theorem tickFinish_running (s : State) : (tickFinish s).running = false := rfl
@[simp] theorem tickFinish_finished (s : State) : (tickFinish s).finished = true := rfl
@[simp] theorem tickFinish_stage (s : State) : (tickFinish s).stage = stageMap s.n s.st (s.cycle + 1) := rfl
@[simp] theorem tickFinish_dec (s : State) : (tickFinish s).dec = s.dec := rfl
@[simp] theorem tickFinish_hz (s : State) : (tickFinish s).hz = s.hz := rfl
@[simp] theorem tickFinish_edges (s : State) : (tickFinish s).edges = s.edges := rfl
@[simp] theorem tickFinish_st (s : State) : (tickFinish s).st = s.st := rfl
@[simp] theorem tickFinish_totalStall (s : State) : (tickFinish s).totalStall = s.totalStall := rfl
@[simp] theorem tickFinish_completion (s : State) : (tickFinish s).completion = s.completion := rfl
@[simp] theorem tickFinish_nmax (s : State) : (tickFinish s).nmax = s.nmax := rfl
@[simp] theorem tickFinish_port (s : State) : (tickFinish s).port = s.port := rfl
@[simp] theorem tickFinish_reject (s : State) : (tickFinish s).reject = false := rfl

@[simp] theorem startRun_fwdCfg (ws : List Word) (s : State) : (startRun ws s).fwdCfg = s.fwdCfg := rfl
@[simp] theorem startRun_n (ws : List Word) (s : State) : (startRun ws s).n = ws.length := rfl
@[simp] theorem startRun_iw (ws : List Word) (s : State) : (startRun ws s).iw = ws := rfl
@[simp] theorem startRun_fwdRun (ws : List Word) (s : State) : (startRun ws s).fwdRun = s.fwdCfg := rfl
@[simp] theorem startRun_cycle (ws : List Word) (s : State) : (startRun ws s).cycle = 1 := rfl
@[simp] theorem startRun_stallRem (ws : List Word) (s : State) : (startRun ws s).stallRem = 0 := rfl
@[simp] theorem startRun_running (ws : List Word) (s : State) : (startRun ws s).running = true := rfl
@[simp] theorem startRun_finished (ws : List Word) (s : State) : (startRun ws s).finished = false := rfl
@[simp] theorem startRun_stage (ws : List Word) (s : State) :
    (startRun ws s).stage = stageMap ws.length (analyzeStalls ws.length (ws.map decodeRecord) s.fwdCfg) 1 := rfl
@[simp] theorem startRun_dec (ws : List Word) (s : State) : (startRun ws s).dec = ws.map decodeRecord := rfl
@[simp] theorem startRun_hz (ws : List Word) (s : State) :
    (startRun ws s).hz = analyzeHazards ws.length (ws.map decodeRecord) s.fwdCfg := rfl
@[simp] theorem startRun_edges (ws : List Word) (s : State) :
    (startRun ws s).edges = analyzeEdges ws.length (ws.map decodeRecord) s.fwdCfg := rfl
@[simp] theorem startRun_st (ws : List Word) (s : State) :
    (startRun ws s).st = analyzeStalls ws.length (ws.map decodeRecord) s.fwdCfg := rfl
@[simp] theorem startRun_totalStall (ws : List Word) (s : State) :
    (startRun ws s).totalStall = (analyzeStalls ws.length (ws.map decodeRecord) s.fwdCfg).sum := rfl
@[simp] theorem startRun_completion (ws : List Word) (s : State) :
    (startRun ws s).completion = ws.length + 5 - 1 + (analyzeStalls ws.length (ws.map decodeRecord) s.fwdCfg).sum := rfl
@[simp] theorem startRun_nmax (ws : List Word) (s : State) : (startRun ws s).nmax = s.nmax := rfl
@[simp] theorem startRun_port (ws : List Word) (s : State) : (startRun ws s).port = s.port := rfl
@[simp] theorem startRun_reject (ws : List Word) (s : State) : (startRun ws s).reject = false := rfl

@[simp] theorem presentNext_fwdCfg (p : PortCommand) (s : State) : (presentNext p s).fwdCfg = s.fwdCfg := rfl
@[simp] theorem presentNext_n (p : PortCommand) (s : State) : (presentNext p s).n = s.n := rfl
@[simp] theorem presentNext_iw (p : PortCommand) (s : State) : (presentNext p s).iw = s.iw := rfl
@[simp] theorem presentNext_fwdRun (p : PortCommand) (s : State) : (presentNext p s).fwdRun = s.fwdRun := rfl
@[simp] theorem presentNext_cycle (p : PortCommand) (s : State) : (presentNext p s).cycle = s.cycle := rfl
@[simp] theorem presentNext_stallRem (p : PortCommand) (s : State) : (presentNext p s).stallRem = s.stallRem := rfl
@[simp] theorem presentNext_running (p : PortCommand) (s : State) : (presentNext p s).running = s.running := rfl
@[simp] theorem presentNext_finished (p : PortCommand) (s : State) : (presentNext p s).finished = s.finished := rfl
@[simp] theorem presentNext_stage (p : PortCommand) (s : State) : (presentNext p s).stage = s.stage := rfl
@[simp] theorem presentNext_dec (p : PortCommand) (s : State) : (presentNext p s).dec = s.dec := rfl
@[simp] theorem presentNext_hz (p : PortCommand) (s : State) : (presentNext p s).hz = s.hz := rfl
@[simp] theorem presentNext_edges (p : PortCommand) (s : State) : (presentNext p s).edges = s.edges := rfl
@[simp] theorem presentNext_st (p : PortCommand) (s : State) : (presentNext p s).st = s.st := rfl
@[simp] theorem presentNext_totalStall (p : PortCommand) (s : State) : (presentNext p s).totalStall = s.totalStall := rfl
@[simp] theorem presentNext_completion (p : PortCommand) (s : State) : (presentNext p s).completion = s.completion := rfl
@[simp] theorem presentNext_nmax (p : PortCommand) (s : State) : (presentNext p s).nmax = s.nmax := rfl
@[simp] theorem presentNext_port (p : PortCommand) (s : State) : (presentNext p s).port = p :: s.port := rfl
@[simp] theorem presentNext_reject (p : PortCommand) (s : State) : (presentNext p s).reject = s.reject := rfl
/-- Taking a command from the port changes the port alone (R180). -/
theorem takeCommand_frame (s : State) : { (takeCommand s).2 with port := s.port } = s := by
  unfold takeCommand
  cases h : s.port <;> simp [← h]

end Sys2Proof.Machine
end

