-- ==== Sys2Proof/Laws/Exec.lean ====
section
/-! SUPPORT. What RESUME, START and TICK answer, by case, and how a run of instructions is put together. -/

namespace Sys2Proof.Machine

/-! ### The arms of the commands that test the state -/

theorem exec_resume (s : State) : exec .resume s = execResume s := rfl

theorem exec_start (ws : List Word) (s : State) : exec (.start ws) s = execStart ws s := rfl

theorem exec_tick (s : State) : exec .tick s = execTick s := rfl

/-! ### RESUME and START -/

theorem exec_resume_of_paused {s : State} (h : s.cycle > 0) (hf : s.finished = false) :
    exec .resume s = .next { s with running := true, reject := false } := by
  simp [exec_resume, execResume, h, hf]

theorem exec_resume_otherwise {s : State} (h : ¬(s.cycle > 0 ∧ s.finished = false)) :
    exec .resume s = .next (noChange s) := by
  simp only [exec_resume, execResume, h, if_false]

theorem exec_start_accepted {ws : List Word} {s : State} (h : s.nmax.admits ws.length = true) :
    exec (.start ws) s = .next (startRun ws s) := by
  simp [exec_start, execStart, h]

theorem exec_start_rejected {ws : List Word} {s : State} (h : s.nmax.admits ws.length = false) :
    exec (.start ws) s = .next (rejectStart s) := by
  simp [exec_start, execStart, h]

/-! ### TICK -/

theorem exec_tick_stopped {s : State} (h : s.running = false ∨ s.finished = true) : exec .tick s = .next (noChange s) := by
  simp only [exec_tick, execTick, h, if_true]

theorem exec_tick_frozen {s : State} (hr : s.running = true) (hf : s.finished = false) (hs : s.stallRem > 0) :
    exec .tick s = .next (tickFrozen s) := by
  simp [exec_tick, execTick, hr, hf, hs]

theorem exec_tick_finish {s : State} (hr : s.running = true) (hf : s.finished = false) (hs : s.stallRem = 0)
    (hc : s.cycle + 1 > s.completion) : exec .tick s = .next (tickFinish s) := by
  simp [exec_tick, execTick, hr, hf, hs, hc]

theorem exec_tick_ordinary {s : State} (hr : s.running = true) (hf : s.finished = false) (hs : s.stallRem = 0)
    (hc : s.cycle + 1 ≤ s.completion) : exec .tick s = .next (tickOrdinary s) := by
  have : ¬s.cycle + 1 > s.completion := by omega
  simp [exec_tick, execTick, hr, hf, hs, this]

/-- The four paths of a TICK (R155, R157, R161, R162). -/
theorem exec_tick_cases (s : State) :
    ((s.running = false ∨ s.finished = true) ∧ exec .tick s = .next (noChange s)) ∨
    (s.running = true ∧ s.finished = false ∧ s.stallRem > 0 ∧ exec .tick s = .next (tickFrozen s)) ∨
    (s.running = true ∧ s.finished = false ∧ s.stallRem = 0 ∧ s.cycle + 1 > s.completion ∧
      exec .tick s = .next (tickFinish s)) ∨
    (s.running = true ∧ s.finished = false ∧ s.stallRem = 0 ∧ s.cycle + 1 ≤ s.completion ∧
      exec .tick s = .next (tickOrdinary s)) := by
  by_cases h : s.running = false ∨ s.finished = true
  · exact .inl ⟨h, exec_tick_stopped h⟩
  · have hr : s.running = true := by simpa using fun hr => h (.inl hr)
    have hf : s.finished = false := by simpa using fun hf => h (.inr hf)
    rcases Nat.eq_zero_or_pos s.stallRem with hs | hs
    · rcases Nat.lt_or_ge s.completion (s.cycle + 1) with hc | hc
      · exact .inr (.inr (.inl ⟨hr, hf, hs, hc, exec_tick_finish hr hf hs hc⟩))
      · exact .inr (.inr (.inr ⟨hr, hf, hs, hc, exec_tick_ordinary hr hf hs hc⟩))
    · exact .inr (.inl ⟨hr, hf, hs, exec_tick_frozen hr hf hs⟩)

/-! ### Runs -/

theorem runInstrs_cons {i : Instr} {is : List Instr} {s t : State} (h : exec i s = .next t) :
    runInstrs (i :: is) s = runInstrs is t := by
  simp [runInstrs, h]

theorem runInstrs_append {is js : List Instr} {s t : State} (h : runInstrs is s = .next t) :
    runInstrs (is ++ js) s = runInstrs js t := by
  induction is generalizing s with
  | nil =>
    simp only [runInstrs, Host.Outcome.next.injEq] at h
    simp [h]
  | cons i is ih =>
    simp only [runInstrs] at h
    cases hx : exec i s with
    | next u =>
      rw [hx] at h
      rw [List.cons_append, runInstrs_cons hx]
      exact ih h
    | fault f => cases f
    | refused r => simp [hx] at h

theorem runTicks_succ {k : Nat} {s t : State} (h : exec .tick s = .next t) : runTicks (k + 1) s = runTicks k t := by
  simp only [runTicks, List.replicate_succ]
  exact runInstrs_cons h

/-- k TICKs and then one more. -/
theorem runTicks_add_one {k : Nat} {s t : State} (h : runTicks k s = .next t) : runTicks (k + 1) s = exec .tick t := by
  unfold runTicks at h ⊢
  rw [List.replicate_succ', runInstrs_append h]
  simp only [runInstrs]
  cases exec .tick t <;> rfl

end Sys2Proof.Machine
end

