-- ==== Sys2Proof/Laws/Sequencer.lean ====
section
/-! SUPPORT. The stage map and the trigger (spec/43_stall_sequencer.md R158 to R160) in terms of T(k), the cycle at which
instruction k is in ID (R165). -/

namespace Sys2Proof.Machine

/-! ### Stall sums and T(k) -/

theorem stallAt_of_some {st : List Nat} {k q : Nat} (h : st[k]? = some q) : stallAt st k = q := by
  simp [stallAt, h]

@[simp] theorem precedingStalls_zero (st : List Nat) : precedingStalls st 0 = 0 := by simp [precedingStalls]

theorem precedingStalls_succ (st : List Nat) (k : Nat) :
    precedingStalls st (k + 1) = precedingStalls st k + stallAt st k := by
  unfold precedingStalls stallAt
  rw [List.take_add_one]
  cases h : st[k]? <;> simp

theorem precedingStalls_mono (st : List Nat) {k m : Nat} (h : k ≤ m) : precedingStalls st k ≤ precedingStalls st m := by
  induction h with
  | refl => exact Nat.le_refl _
  | step _ ih => rw [precedingStalls_succ]; omega

theorem precedingStalls_length (st : List Nat) : precedingStalls st st.length = st.sum := by
  simp [precedingStalls]

theorem idCycle_succ (st : List Nat) (k : Nat) : idCycle st (k + 1) = idCycle st k + 1 + stallAt st k := by
  simp only [idCycle, precedingStalls_succ]
  omega

/-- A later instruction is in ID only after an earlier one and its whole freeze (R166). -/
theorem idCycle_lt (st : List Nat) {k m : Nat} (h : k < m) : idCycle st k + stallAt st k < idCycle st m := by
  have hs := idCycle_succ st k
  have hm := precedingStalls_mono st (k := k + 1) (m := m) h
  simp only [idCycle] at hs ⊢
  omega

theorem idCycle_inj (st : List Nat) {k m : Nat} (h : idCycle st k = idCycle st m) : k = m := by
  rcases Nat.lt_trichotomy k m with hk | hk | hk
  · have := idCycle_lt st hk
    omega
  · exact hk
  · have := idCycle_lt st hk
    omega

/-- The last frozen cycle of instruction k is below COMPLETION (R166). -/
theorem freeze_end_lt {st : List Nat} {k n : Nat} (hk : k < n) (hl : st.length = n) :
    idCycle st k + stallAt st k ≤ n + 1 + st.sum := by
  have h := precedingStalls_mono st (k := k + 1) (m := st.length) (by omega)
  rw [precedingStalls_length, precedingStalls_succ] at h
  simp only [idCycle]
  omega

/-! ### The stage map -/

theorem stageIndex_eq (st : List Nat) (k c : Nat) : stageIndex st k c = (c : Int) + 1 - idCycle st k := by
  simp only [stageIndex, idCycle]
  omega

@[simp] theorem stageMap_length (n : Nat) (st : List Nat) (c : Nat) : (stageMap n st c).length = n := by
  simp [stageMap]

theorem stageMap_getElem? {n k : Nat} (st : List Nat) (c : Nat) (h : k < n) :
    (stageMap n st c)[k]? = some (stageOfIndex (stageIndex st k c)) := by
  simp [stageMap, h]

theorem stageMap_getElem?_eq_some {n k c : Nat} {st : List Nat} {x : Stage} :
    (stageMap n st c)[k]? = some x ↔ k < n ∧ x = stageOfIndex (stageIndex st k c) := by
  by_cases h : k < n
  · rw [stageMap_getElem? st c h]
    simp [h, eq_comm]
  · simp [stageMap, h]

/-- A shown stage's code is the stageIndex (R79, R159). -/
theorem stageOfIndex_code {si : Int} (h : 0 ≤ si) (h' : si < 5) : ((stageOfIndex si).code.toNat : Int) = si := by
  unfold stageOfIndex
  repeat' split
  all_goals first | omega | (simp only [Stage.code, BitVec.toNat_ofNat]; omega)

theorem stageOfIndex_none {si : Int} (h : ¬(0 ≤ si ∧ si < 5)) : stageOfIndex si = .NONE := by
  unfold stageOfIndex
  repeat' split
  all_goals first | rfl | omega

theorem stageOfIndex_ne_none {si : Int} (h : stageOfIndex si ≠ .NONE) : 0 ≤ si ∧ si < 5 := by
  by_contra hc
  exact h (stageOfIndex_none hc)

/-- A stage of index 5 or more is NONE for every instruction: the map past COMPLETION is empty (R161). -/
theorem stageMap_past_completion {n c : Nat} {st : List Nat} (hl : st.length = n) (hc : n + 4 + st.sum < c) :
    stageMap n st c = List.replicate n .NONE := by
  apply List.ext_getElem?
  intro k
  by_cases hk : k < n
  · rw [stageMap_getElem? st c hk, stageOfIndex_none]
    · simp [hk]
    · have := freeze_end_lt hk hl
      rw [stageIndex_eq]
      omega
  · simp [stageMap, hk]

/-- The map of cycle 1: index 0 in IF, nothing else (R182). -/
theorem stageMap_one {n : Nat} (st : List Nat) (hn : 1 ≤ n) : stageMap n st 1 = .IF :: List.replicate (n - 1) .NONE := by
  apply List.ext_getElem?
  intro k
  by_cases hk : k < n
  · rw [stageMap_getElem? st 1 hk, stageIndex_eq]
    cases k with
    | zero => simp [idCycle, stageOfIndex]
    | succ m =>
      have hm : m < n - 1 := by omega
      rw [stageOfIndex_none (by simp only [idCycle]; omega)]
      simp [hm]
  · have hk' : ¬k < (Stage.IF :: List.replicate (n - 1) Stage.NONE).length := by simp; omega
    rw [List.getElem?_eq_none (by simpa using Nat.le_of_not_lt hk), List.getElem?_eq_none (Nat.le_of_not_lt hk')]

/-! ### The trigger -/

theorem trigger_succ (n : Nat) (st : List Nat) (c : Nat) :
    trigger (n + 1) st c =
      (if stageIndex st n c = 1 ∧ stallAt st n > 0 ∧ trigger n st c = 0 then stallAt st n else trigger n st c) := by
  simp [trigger, List.range_succ]

theorem trigger_eq_zero {n c : Nat} {st : List Nat} (h : ∀ k, k < n → idCycle st k = c → stallAt st k = 0) :
    trigger n st c = 0 := by
  induction n with
  | zero => simp [trigger]
  | succ n ih =>
    rw [trigger_succ, ih (fun k hk => h k (by omega))]
    split
    · rename_i hc
      rw [stageIndex_eq] at hc
      have := h n (by omega) (by omega)
      omega
    · rfl

/-- The instruction in ID at cycle c sets the trigger, and it alone (R160, R164). -/
theorem trigger_eq {n c k : Nat} {st : List Nat} (hk : k < n) (hid : idCycle st k = c) : trigger n st c = stallAt st k := by
  induction n with
  | zero => omega
  | succ n ih =>
    rw [trigger_succ]
    rcases Nat.lt_or_ge k n with hlt | hge
    · have hne : stageIndex st n c ≠ 1 := by
        have := idCycle_lt st hlt
        rw [stageIndex_eq]
        omega
      simp [hne, ih hlt]
    · obtain rfl : k = n := by omega
      have h0 : trigger k st c = 0 := by
        apply trigger_eq_zero
        intro m hm hmc
        have := idCycle_inj st (hmc.trans hid.symm)
        omega
      have h1 : stageIndex st k c = 1 := by rw [stageIndex_eq]; omega
      rw [h0]
      simp only [h1, true_and, and_true]
      split <;> omega

/-- What the trigger can be: 0 with nobody stalling in ID, or the count of the one that is (R160). -/
theorem trigger_cases (n : Nat) (st : List Nat) (c : Nat) :
    (trigger n st c = 0 ∧ ∀ k, k < n → idCycle st k = c → stallAt st k = 0) ∨
    ∃ k, k < n ∧ idCycle st k = c ∧ trigger n st c = stallAt st k ∧ stallAt st k > 0 := by
  by_cases h : ∃ k, k < n ∧ idCycle st k = c ∧ stallAt st k > 0
  · obtain ⟨k, hk, hid, hq⟩ := h
    exact .inr ⟨k, hk, hid, trigger_eq hk hid, hq⟩
  · left
    have hz : ∀ k, k < n → idCycle st k = c → stallAt st k = 0 := by
      intro k hk hid
      by_contra hq
      exact h ⟨k, hk, hid, by omega⟩
    exact ⟨trigger_eq_zero hz, hz⟩

end Sys2Proof.Machine
end

