-- ==== Sys2Proof/Laws/Invariant.lean ====
section
/-! SUPPORT. What the invariant gives at once: the lengths of the tables, the totals, the end of a freeze; and that it does not
speak of FWD_CFG, of the host's further commands or of `reject`. -/

namespace Sys2Proof.Machine

/-- An accepted START has at least one word (R182). -/
theorem admits_pos {c : Capacity} {n : Nat} (h : c.admits n = true) : 1 ≤ n := by
  cases c <;> simp [Capacity.admits] at h <;> omega

theorem Inv.st_length {s : State} (h : Inv s) : s.st.length = s.n := by
  rw [h.tables.2.2.2]
  simp

theorem Inv.completion_eq {s : State} (h : Inv s) (hn : s.n ≠ 0) : s.completion = s.n + 4 + s.st.sum := by
  have := h.totals
  rw [if_neg hn, this.1] at this
  exact this.2

/-- CYCLE is at most COMPLETION, with or without a run (R37). -/
theorem Inv.cycle_le {s : State} (h : Inv s) : s.cycle ≤ s.completion := by
  rcases Nat.eq_zero_or_pos s.n with h0 | h0
  · rw [(h.idle h0).1]
    exact Nat.zero_le _
  · exact (h.bounds (by omega)).2

/-- A freeze ends below COMPLETION (R166). -/
theorem Inv.frozen_lt {s : State} (h : Inv s) (hs : s.stallRem > 0) :
    s.n ≠ 0 ∧ s.cycle + s.stallRem < s.completion := by
  obtain ⟨k, hk, h1, h2, -⟩ := h.freeze hs
  have hn : s.n ≠ 0 := by omega
  have := freeze_end_lt hk h.st_length
  rw [h.completion_eq hn]
  exact ⟨hn, by omega⟩

/-- The invariant does not read FWD_CFG, the port or `reject`. -/
theorem Inv.with {s : State} (h : Inv s) (b : Bool) (p : List PortCommand) (r : Bool) :
    Inv { s with fwdCfg := b, port := p, reject := r } :=
  ⟨h.lengths, h.capacity, h.tables, h.totals, h.idle, h.bounds, h.runningRun, h.finishedRun, h.shown, h.freeze, h.thaw⟩

/-- Two states that differ only in FWD_CFG, the port and `reject` meet the invariant together. -/
theorem Inv.congr {s t : State} (h : Inv s)
    (h' : { t with fwdCfg := s.fwdCfg, port := s.port, reject := s.reject } = s) : Inv t := by
  have e : t = { s with fwdCfg := t.fwdCfg, port := t.port, reject := t.reject } := by rw [← h']
  rw [e]
  exact h.with _ _ _

/-- A stage map at a cycle at or below COMPLETION has one instruction per stage, so an index in a stage is unique (R164). -/
theorem Inv.shown_unique {s : State} (h : Inv s) {e e' : Nat} {x : Stage} (hx : x ≠ .NONE)
    (h1 : s.stage[e]? = some x) (h2 : s.stage[e']? = some x) : e = e' := by
  obtain ⟨c, -, -, hc⟩ := h.shown
  rw [hc, stageMap_getElem?_eq_some] at h1 h2
  have a := stageOfIndex_ne_none (h1.2 ▸ hx)
  have b := stageOfIndex_ne_none (h2.2 ▸ hx)
  have a' := stageOfIndex_code a.1 a.2
  have b' := stageOfIndex_code b.1 b.2
  rw [← h1.2] at a'
  rw [← h2.2] at b'
  rw [stageIndex_eq] at a' b'
  exact idCycle_inj s.st (by omega)

end Sys2Proof.Machine
end

