-- ==== Sys2Proof/Laws/PerInstr.lean ====
section
/-! SUPPORT. The family OpcodeField of per-instruction laws: the encoder writes each instruction's own row of the opcode table,
an opcode for a word (spec/30_encoding.md R73) and a code for a command (R77). -/

namespace Sys2Proof.Laws.OpcodeField

/-- The row of an instruction: a word's opcode, or 64 plus a command's code. -/
def rowNumber : Instr → Nat
  | .rOp00 _ _ _ _ _ => 0
  | .inOp01 _ _ _ => 1
  | .jOp02 _ _ _ => 2
  | .jlOp03 _ _ _ => 3
  | .inOp04 _ _ _ => 4
  | .inOp05 _ _ _ => 5
  | .inOp06 _ _ _ => 6
  | .inOp07 _ _ _ => 7
  | .iaOp08 _ _ _ => 8
  | .iaOp09 _ _ _ => 9
  | .iaOp10 _ _ _ => 10
  | .iaOp11 _ _ _ => 11
  | .iaOp12 _ _ _ => 12
  | .iaOp13 _ _ _ => 13
  | .iaOp14 _ _ _ => 14
  | .iaOp15 _ _ _ => 15
  | .inOp16 _ _ _ => 16
  | .inOp17 _ _ _ => 17
  | .inOp18 _ _ _ => 18
  | .inOp19 _ _ _ => 19
  | .inOp20 _ _ _ => 20
  | .inOp21 _ _ _ => 21
  | .inOp22 _ _ _ => 22
  | .inOp23 _ _ _ => 23
  | .inOp24 _ _ _ => 24
  | .inOp25 _ _ _ => 25
  | .inOp26 _ _ _ => 26
  | .inOp27 _ _ _ => 27
  | .inOp28 _ _ _ => 28
  | .inOp29 _ _ _ => 29
  | .inOp30 _ _ _ => 30
  | .inOp31 _ _ _ => 31
  | .ilOp32 _ _ _ => 32
  | .ilOp33 _ _ _ => 33
  | .ilOp34 _ _ _ => 34
  | .ilOp35 _ _ _ => 35
  | .ilOp36 _ _ _ => 36
  | .ilOp37 _ _ _ => 37
  | .inOp38 _ _ _ => 38
  | .inOp39 _ _ _ => 39
  | .inOp40 _ _ _ => 40
  | .inOp41 _ _ _ => 41
  | .inOp42 _ _ _ => 42
  | .inOp43 _ _ _ => 43
  | .inOp44 _ _ _ => 44
  | .inOp45 _ _ _ => 45
  | .inOp46 _ _ _ => 46
  | .inOp47 _ _ _ => 47
  | .inOp48 _ _ _ => 48
  | .inOp49 _ _ _ => 49
  | .inOp50 _ _ _ => 50
  | .inOp51 _ _ _ => 51
  | .inOp52 _ _ _ => 52
  | .inOp53 _ _ _ => 53
  | .inOp54 _ _ _ => 54
  | .inOp55 _ _ _ => 55
  | .inOp56 _ _ _ => 56
  | .inOp57 _ _ _ => 57
  | .inOp58 _ _ _ => 58
  | .inOp59 _ _ _ => 59
  | .inOp60 _ _ _ => 60
  | .inOp61 _ _ _ => 61
  | .inOp62 _ _ _ => 62
  | .inOp63 _ _ _ => 63
  | .nop => 64
  | .start _ => 65
  | .reset => 66
  | .pause => 67
  | .resume => 68
  | .setfwd _ => 69
  | .tick => 70
  | .reserved7 => 71

/-- The row an encoding belongs to. -/
def rowOfEncoding : Encoding → Nat
  | .word w => (opcodeOf w).toNat
  | .command p => 64 + p.cmd.toNat

/-- The encoding of `i` belongs to the row of `i`. -/
def Statement (i : Instr) : Prop := rowOfEncoding (encode i) = rowNumber i

theorem of_packI {op : Opcode} {rs rt : RegNum} {low : BitVec 16} {i : Instr} (h : encode i = .word (packI op rs rt low))
    (hr : rowNumber i = op.toNat) : Statement i := by
  unfold Statement
  rw [h, hr]
  simp [rowOfEncoding]

theorem rOp00 (rs rt rd : RegNum) (unnamed : BitVec 5) (funct : BitVec 6) : Statement (.rOp00 rs rt rd unnamed funct) := by
  simp [Statement, rowOfEncoding, rowNumber, encode]
theorem inOp01 (rs rt : RegNum) (low : BitVec 16) : Statement (.inOp01 rs rt low) := of_packI rfl rfl
theorem jOp02 (rs rt : RegNum) (low : BitVec 16) : Statement (.jOp02 rs rt low) := of_packI rfl rfl
theorem jlOp03 (rs rt : RegNum) (low : BitVec 16) : Statement (.jlOp03 rs rt low) := of_packI rfl rfl
theorem inOp04 (rs rt : RegNum) (low : BitVec 16) : Statement (.inOp04 rs rt low) := of_packI rfl rfl
theorem inOp05 (rs rt : RegNum) (low : BitVec 16) : Statement (.inOp05 rs rt low) := of_packI rfl rfl
theorem inOp06 (rs rt : RegNum) (low : BitVec 16) : Statement (.inOp06 rs rt low) := of_packI rfl rfl
theorem inOp07 (rs rt : RegNum) (low : BitVec 16) : Statement (.inOp07 rs rt low) := of_packI rfl rfl
theorem iaOp08 (rs rt : RegNum) (low : BitVec 16) : Statement (.iaOp08 rs rt low) := of_packI rfl rfl
theorem iaOp09 (rs rt : RegNum) (low : BitVec 16) : Statement (.iaOp09 rs rt low) := of_packI rfl rfl
theorem iaOp10 (rs rt : RegNum) (low : BitVec 16) : Statement (.iaOp10 rs rt low) := of_packI rfl rfl
theorem iaOp11 (rs rt : RegNum) (low : BitVec 16) : Statement (.iaOp11 rs rt low) := of_packI rfl rfl
theorem iaOp12 (rs rt : RegNum) (low : BitVec 16) : Statement (.iaOp12 rs rt low) := of_packI rfl rfl
theorem iaOp13 (rs rt : RegNum) (low : BitVec 16) : Statement (.iaOp13 rs rt low) := of_packI rfl rfl
theorem iaOp14 (rs rt : RegNum) (low : BitVec 16) : Statement (.iaOp14 rs rt low) := of_packI rfl rfl
theorem iaOp15 (rs rt : RegNum) (low : BitVec 16) : Statement (.iaOp15 rs rt low) := of_packI rfl rfl
theorem inOp16 (rs rt : RegNum) (low : BitVec 16) : Statement (.inOp16 rs rt low) := of_packI rfl rfl
theorem inOp17 (rs rt : RegNum) (low : BitVec 16) : Statement (.inOp17 rs rt low) := of_packI rfl rfl
theorem inOp18 (rs rt : RegNum) (low : BitVec 16) : Statement (.inOp18 rs rt low) := of_packI rfl rfl
theorem inOp19 (rs rt : RegNum) (low : BitVec 16) : Statement (.inOp19 rs rt low) := of_packI rfl rfl
theorem inOp20 (rs rt : RegNum) (low : BitVec 16) : Statement (.inOp20 rs rt low) := of_packI rfl rfl
theorem inOp21 (rs rt : RegNum) (low : BitVec 16) : Statement (.inOp21 rs rt low) := of_packI rfl rfl
theorem inOp22 (rs rt : RegNum) (low : BitVec 16) : Statement (.inOp22 rs rt low) := of_packI rfl rfl
theorem inOp23 (rs rt : RegNum) (low : BitVec 16) : Statement (.inOp23 rs rt low) := of_packI rfl rfl
theorem inOp24 (rs rt : RegNum) (low : BitVec 16) : Statement (.inOp24 rs rt low) := of_packI rfl rfl
theorem inOp25 (rs rt : RegNum) (low : BitVec 16) : Statement (.inOp25 rs rt low) := of_packI rfl rfl
theorem inOp26 (rs rt : RegNum) (low : BitVec 16) : Statement (.inOp26 rs rt low) := of_packI rfl rfl
theorem inOp27 (rs rt : RegNum) (low : BitVec 16) : Statement (.inOp27 rs rt low) := of_packI rfl rfl
theorem inOp28 (rs rt : RegNum) (low : BitVec 16) : Statement (.inOp28 rs rt low) := of_packI rfl rfl
theorem inOp29 (rs rt : RegNum) (low : BitVec 16) : Statement (.inOp29 rs rt low) := of_packI rfl rfl
theorem inOp30 (rs rt : RegNum) (low : BitVec 16) : Statement (.inOp30 rs rt low) := of_packI rfl rfl
theorem inOp31 (rs rt : RegNum) (low : BitVec 16) : Statement (.inOp31 rs rt low) := of_packI rfl rfl
theorem ilOp32 (rs rt : RegNum) (low : BitVec 16) : Statement (.ilOp32 rs rt low) := of_packI rfl rfl
theorem ilOp33 (rs rt : RegNum) (low : BitVec 16) : Statement (.ilOp33 rs rt low) := of_packI rfl rfl
theorem ilOp34 (rs rt : RegNum) (low : BitVec 16) : Statement (.ilOp34 rs rt low) := of_packI rfl rfl
theorem ilOp35 (rs rt : RegNum) (low : BitVec 16) : Statement (.ilOp35 rs rt low) := of_packI rfl rfl
theorem ilOp36 (rs rt : RegNum) (low : BitVec 16) : Statement (.ilOp36 rs rt low) := of_packI rfl rfl
theorem ilOp37 (rs rt : RegNum) (low : BitVec 16) : Statement (.ilOp37 rs rt low) := of_packI rfl rfl
theorem inOp38 (rs rt : RegNum) (low : BitVec 16) : Statement (.inOp38 rs rt low) := of_packI rfl rfl
theorem inOp39 (rs rt : RegNum) (low : BitVec 16) : Statement (.inOp39 rs rt low) := of_packI rfl rfl
theorem inOp40 (rs rt : RegNum) (low : BitVec 16) : Statement (.inOp40 rs rt low) := of_packI rfl rfl
theorem inOp41 (rs rt : RegNum) (low : BitVec 16) : Statement (.inOp41 rs rt low) := of_packI rfl rfl
theorem inOp42 (rs rt : RegNum) (low : BitVec 16) : Statement (.inOp42 rs rt low) := of_packI rfl rfl
theorem inOp43 (rs rt : RegNum) (low : BitVec 16) : Statement (.inOp43 rs rt low) := of_packI rfl rfl
theorem inOp44 (rs rt : RegNum) (low : BitVec 16) : Statement (.inOp44 rs rt low) := of_packI rfl rfl
theorem inOp45 (rs rt : RegNum) (low : BitVec 16) : Statement (.inOp45 rs rt low) := of_packI rfl rfl
theorem inOp46 (rs rt : RegNum) (low : BitVec 16) : Statement (.inOp46 rs rt low) := of_packI rfl rfl
theorem inOp47 (rs rt : RegNum) (low : BitVec 16) : Statement (.inOp47 rs rt low) := of_packI rfl rfl
theorem inOp48 (rs rt : RegNum) (low : BitVec 16) : Statement (.inOp48 rs rt low) := of_packI rfl rfl
theorem inOp49 (rs rt : RegNum) (low : BitVec 16) : Statement (.inOp49 rs rt low) := of_packI rfl rfl
theorem inOp50 (rs rt : RegNum) (low : BitVec 16) : Statement (.inOp50 rs rt low) := of_packI rfl rfl
theorem inOp51 (rs rt : RegNum) (low : BitVec 16) : Statement (.inOp51 rs rt low) := of_packI rfl rfl
theorem inOp52 (rs rt : RegNum) (low : BitVec 16) : Statement (.inOp52 rs rt low) := of_packI rfl rfl
theorem inOp53 (rs rt : RegNum) (low : BitVec 16) : Statement (.inOp53 rs rt low) := of_packI rfl rfl
theorem inOp54 (rs rt : RegNum) (low : BitVec 16) : Statement (.inOp54 rs rt low) := of_packI rfl rfl
theorem inOp55 (rs rt : RegNum) (low : BitVec 16) : Statement (.inOp55 rs rt low) := of_packI rfl rfl
theorem inOp56 (rs rt : RegNum) (low : BitVec 16) : Statement (.inOp56 rs rt low) := of_packI rfl rfl
theorem inOp57 (rs rt : RegNum) (low : BitVec 16) : Statement (.inOp57 rs rt low) := of_packI rfl rfl
theorem inOp58 (rs rt : RegNum) (low : BitVec 16) : Statement (.inOp58 rs rt low) := of_packI rfl rfl
theorem inOp59 (rs rt : RegNum) (low : BitVec 16) : Statement (.inOp59 rs rt low) := of_packI rfl rfl
theorem inOp60 (rs rt : RegNum) (low : BitVec 16) : Statement (.inOp60 rs rt low) := of_packI rfl rfl
theorem inOp61 (rs rt : RegNum) (low : BitVec 16) : Statement (.inOp61 rs rt low) := of_packI rfl rfl
theorem inOp62 (rs rt : RegNum) (low : BitVec 16) : Statement (.inOp62 rs rt low) := of_packI rfl rfl
theorem inOp63 (rs rt : RegNum) (low : BitVec 16) : Statement (.inOp63 rs rt low) := of_packI rfl rfl
theorem nop : Statement (.nop) := rfl
theorem start (words : List Word) : Statement (.start words) := rfl
theorem reset : Statement (.reset) := rfl
theorem pause : Statement (.pause) := rfl
theorem resume : Statement (.resume) := rfl
theorem setfwd (en : Bool) : Statement (.setfwd en) := rfl
theorem tick : Statement (.tick) := rfl
theorem reserved7 : Statement (.reserved7) := rfl

end Sys2Proof.Laws.OpcodeField
end

