-- ==== Sys2Proof/Tests/Slice0.lean ====
section
/-! SUPPORT. Tests of the model. Every expected value is from spec/ (the vectors and traces of 95_test_vectors.md,
96_test_vectors_classifier.md and 97_test_traces_commands.md) or worked out by hand from the rule cited; and, at the end, a
witness for the hypotheses of every statement that has some. -/

namespace Sys2Proof.Machine

/-! ### Helpers -/

/-- The state after power-on with FWD_POR given. -/
def fresh (fwd : Bool) : State := { State.reset with fwdCfg := fwd }

/-- Scenario B (E3): `add $7,$5,$6` and its reader at distance 1. -/
def scenarioB : List Word := [0x00a63820#32, 0x00e84820#32]

/-- The run an accepted START leaves, from power-on. -/
def started (fwd : Bool) (ws : List Word) : State := startRun ws (fresh fwd)

/-- What a test reads of an outcome; none if there is no next state. -/
def read {α : Type} (f : State → α) : StepOutcome → Option α
  | .next t => some (f t)
  | .fault _ => none
  | .refused _ => none

/-- A run of scenario B without forwarding, at a row of trace T2: CYCLE, STALL_REM and STAGE given. -/
def rowT2 (cycle stallRem : Nat) (stage : List Stage) : State :=
  { started false scenarioB with cycle := cycle, stallRem := stallRem, stage := stage }

/-! ### Well-formedness: each check refuses an ill-formed term, and admits its boundary -/

theorem test_wf_refuses_an_empty_start : (Instr.start []).wf .unbounded = false := by decide

theorem test_wf_refuses_a_start_beyond_the_capacity :
    (Instr.start [0#32, 0#32, 0#32]).wf (.upTo 1) = false ∧ (Instr.start [0#32, 0#32]).wf (.upTo 1) = true := by decide

theorem test_wf_refuses_a_port_item_with_a_busy_unread_lane :
    (PortCommand.mk 3#3 true []).wf = false ∧ (PortCommand.mk 6#3 false [0#32]).wf = false ∧
    (PortCommand.mk 5#3 true []).wf = true ∧ (PortCommand.mk 1#3 false [0#32]).wf = true := by decide

/-! ### Decoding: every constructor, by a word written out from R71 and R73

opcode [31:26] = the row, rs [25:21] = 10001 = 17, rt [20:16] = 01010 = 10, and the low half 1000 0100 0010 0001 = 0x8421. -/

/-- Opcode 000000, rs 10001, rt 01010, rd 11000, unnamed 00110, funct 100101. -/
theorem test_decode_R_bit_by_bit :
    decodeWord 0b00000010001010101100000110100101#32 = .rOp00 17#5 10#5 24#5 6#5 37#6 := by decide

/-- Opcodes 2 and 3 (R102, R103). -/
theorem test_decode_J_JL :
    [decodeWord 0x0a2a8421#32, decodeWord 0x0e2a8421#32] =
    [.jOp02 17#5 10#5 0x8421#16, .jlOp03 17#5 10#5 0x8421#16] := by decide

/-- Opcodes 8 to 15 (R104). -/
theorem test_decode_IA :
    [decodeWord 0x222a8421#32, decodeWord 0x262a8421#32, decodeWord 0x2a2a8421#32,
     decodeWord 0x2e2a8421#32, decodeWord 0x322a8421#32, decodeWord 0x362a8421#32,
     decodeWord 0x3a2a8421#32, decodeWord 0x3e2a8421#32] =
    [.iaOp08 17#5 10#5 0x8421#16, .iaOp09 17#5 10#5 0x8421#16, .iaOp10 17#5 10#5 0x8421#16,
     .iaOp11 17#5 10#5 0x8421#16, .iaOp12 17#5 10#5 0x8421#16, .iaOp13 17#5 10#5 0x8421#16,
     .iaOp14 17#5 10#5 0x8421#16, .iaOp15 17#5 10#5 0x8421#16] := by decide

/-- Opcodes 32 to 37 (R105). -/
theorem test_decode_IL :
    [decodeWord 0x822a8421#32, decodeWord 0x862a8421#32, decodeWord 0x8a2a8421#32,
     decodeWord 0x8e2a8421#32, decodeWord 0x922a8421#32, decodeWord 0x962a8421#32] =
    [.ilOp32 17#5 10#5 0x8421#16, .ilOp33 17#5 10#5 0x8421#16, .ilOp34 17#5 10#5 0x8421#16,
     .ilOp35 17#5 10#5 0x8421#16, .ilOp36 17#5 10#5 0x8421#16, .ilOp37 17#5 10#5 0x8421#16] := by decide

/-- Class IN (R106): the rows 1 to 26. -/
theorem test_decode_IN_1_to_26 :
    [decodeWord 0x062a8421#32, decodeWord 0x122a8421#32, decodeWord 0x162a8421#32,
     decodeWord 0x1a2a8421#32, decodeWord 0x1e2a8421#32, decodeWord 0x422a8421#32,
     decodeWord 0x462a8421#32, decodeWord 0x4a2a8421#32, decodeWord 0x4e2a8421#32,
     decodeWord 0x522a8421#32, decodeWord 0x562a8421#32, decodeWord 0x5a2a8421#32,
     decodeWord 0x5e2a8421#32, decodeWord 0x622a8421#32, decodeWord 0x662a8421#32,
     decodeWord 0x6a2a8421#32] =
    [.inOp01 17#5 10#5 0x8421#16, .inOp04 17#5 10#5 0x8421#16, .inOp05 17#5 10#5 0x8421#16,
     .inOp06 17#5 10#5 0x8421#16, .inOp07 17#5 10#5 0x8421#16, .inOp16 17#5 10#5 0x8421#16,
     .inOp17 17#5 10#5 0x8421#16, .inOp18 17#5 10#5 0x8421#16, .inOp19 17#5 10#5 0x8421#16,
     .inOp20 17#5 10#5 0x8421#16, .inOp21 17#5 10#5 0x8421#16, .inOp22 17#5 10#5 0x8421#16,
     .inOp23 17#5 10#5 0x8421#16, .inOp24 17#5 10#5 0x8421#16, .inOp25 17#5 10#5 0x8421#16,
     .inOp26 17#5 10#5 0x8421#16] := by decide

/-- Class IN (R106): the rows 27 to 48. -/
theorem test_decode_IN_27_to_48 :
    [decodeWord 0x6e2a8421#32, decodeWord 0x722a8421#32, decodeWord 0x762a8421#32,
     decodeWord 0x7a2a8421#32, decodeWord 0x7e2a8421#32, decodeWord 0x9a2a8421#32,
     decodeWord 0x9e2a8421#32, decodeWord 0xa22a8421#32, decodeWord 0xa62a8421#32,
     decodeWord 0xaa2a8421#32, decodeWord 0xae2a8421#32, decodeWord 0xb22a8421#32,
     decodeWord 0xb62a8421#32, decodeWord 0xba2a8421#32, decodeWord 0xbe2a8421#32,
     decodeWord 0xc22a8421#32] =
    [.inOp27 17#5 10#5 0x8421#16, .inOp28 17#5 10#5 0x8421#16, .inOp29 17#5 10#5 0x8421#16,
     .inOp30 17#5 10#5 0x8421#16, .inOp31 17#5 10#5 0x8421#16, .inOp38 17#5 10#5 0x8421#16,
     .inOp39 17#5 10#5 0x8421#16, .inOp40 17#5 10#5 0x8421#16, .inOp41 17#5 10#5 0x8421#16,
     .inOp42 17#5 10#5 0x8421#16, .inOp43 17#5 10#5 0x8421#16, .inOp44 17#5 10#5 0x8421#16,
     .inOp45 17#5 10#5 0x8421#16, .inOp46 17#5 10#5 0x8421#16, .inOp47 17#5 10#5 0x8421#16,
     .inOp48 17#5 10#5 0x8421#16] := by decide

/-- Class IN (R106): the rows 49 to 63. -/
theorem test_decode_IN_49_to_63 :
    [decodeWord 0xc62a8421#32, decodeWord 0xca2a8421#32, decodeWord 0xce2a8421#32,
     decodeWord 0xd22a8421#32, decodeWord 0xd62a8421#32, decodeWord 0xda2a8421#32,
     decodeWord 0xde2a8421#32, decodeWord 0xe22a8421#32, decodeWord 0xe62a8421#32,
     decodeWord 0xea2a8421#32, decodeWord 0xee2a8421#32, decodeWord 0xf22a8421#32,
     decodeWord 0xf62a8421#32, decodeWord 0xfa2a8421#32, decodeWord 0xfe2a8421#32] =
    [.inOp49 17#5 10#5 0x8421#16, .inOp50 17#5 10#5 0x8421#16, .inOp51 17#5 10#5 0x8421#16,
     .inOp52 17#5 10#5 0x8421#16, .inOp53 17#5 10#5 0x8421#16, .inOp54 17#5 10#5 0x8421#16,
     .inOp55 17#5 10#5 0x8421#16, .inOp56 17#5 10#5 0x8421#16, .inOp57 17#5 10#5 0x8421#16,
     .inOp58 17#5 10#5 0x8421#16, .inOp59 17#5 10#5 0x8421#16, .inOp60 17#5 10#5 0x8421#16,
     .inOp61 17#5 10#5 0x8421#16, .inOp62 17#5 10#5 0x8421#16, .inOp63 17#5 10#5 0x8421#16] := by decide

/-- The eight command codes (R77, R78), each with every lane in use. -/
theorem test_decode_commands :
    (List.range 8).map (fun c => decodeCommand ⟨BitVec.ofNat 3 c, true, [0x00a63820#32]⟩) =
    [.nop, .start [0x00a63820#32], .reset, .pause, .resume, .setfwd true, .tick, .reserved7] := by decide

/-- The encoder writes the same words: one of each class, and a START. -/
theorem test_encode_words :
    encode (.rOp00 5#5 6#5 7#5 0#5 32#6) = .word 0x00a63820#32 ∧
    encode (.jlOp03 0#5 0#5 0x10#16) = .word 0x0c000010#32 ∧
    encode (.iaOp15 0#5 8#5 0x1234#16) = .word 0x3c081234#32 ∧
    encode (.ilOp35 4#5 8#5 0#16) = .word 0x8c880000#32 ∧
    encode (.inOp43 4#5 10#5 4#16) = .word 0xac8a0004#32 ∧
    encode (.start [0#32]) = .command ⟨1#3, false, [0#32]⟩ := by decide

/-! ### DEC: the decoder vectors DV1 to DV25 (spec/95_test_vectors.md), without DEC.funct, which is open for kinds I and J -/

/-- A word and the opcode, rs, rt, DEC.rd and kind that its vector gives. -/
abbrev Vector25 := Word × Nat × Nat × Nat × Nat × Kind

def agrees (v : Vector25) : Bool :=
  let d := decodeRecord v.1
  (d.opcode.toNat, d.rs.toNat, d.rt.toNat, d.rd.toNat, d.kind) == v.2

theorem test_records_DV1_to_DV12 :
    ([(0x00a63820#32, 0, 5, 6, 7, .R), (0x00a63821#32, 0, 5, 6, 7, .R),
     (0x00a63fe0#32, 0, 5, 6, 7, .R), (0x00000000#32, 0, 0, 0, 0, .R),
     (0x0000f800#32, 0, 0, 0, 31, .R), (0x03ffffff#32, 0, 31, 31, 31, .R),
     (0x03e00008#32, 0, 31, 0, 0, .R), (0x04110000#32, 1, 0, 17, 0, .I),
     (0x08210000#32, 2, 1, 1, 0, .J), (0x0bffffff#32, 2, 31, 31, 0, .J),
     (0x0c000010#32, 3, 0, 0, 31, .J), (0x0fffffff#32, 3, 31, 31, 31, .J)] : List Vector25).all agrees = true := by decide

theorem test_records_DV13_to_DV25 :
    ([(0x10e00003#32, 4, 7, 0, 0, .I), (0x1d090000#32, 7, 8, 9, 0, .I),
     (0x20080001#32, 8, 0, 8, 8, .I), (0x3c081234#32, 15, 0, 8, 8, .I),
     (0x40084800#32, 16, 0, 8, 0, .I), (0x7c000000#32, 31, 0, 0, 0, .I),
     (0x81280000#32, 32, 9, 8, 8, .I), (0x8c880000#32, 35, 4, 8, 8, .I),
     (0x95280000#32, 37, 9, 8, 8, .I), (0x99280000#32, 38, 9, 8, 0, .I),
     (0xac8a0004#32, 43, 4, 10, 0, .I), (0xfc220000#32, 63, 1, 2, 0, .I),
     (0xffffffff#32, 63, 31, 31, 0, .I)] : List Vector25).all agrees = true := by decide

/-- DEC.funct of a word of kind R (DV1, DV6). -/
theorem test_funct_of_kind_R :
    (decodeRecord 0x00a63820#32).funct = 32#6 ∧ (decodeRecord 0x03ffffff#32).funct = 63#6 := by decide

/-! ### Words: what each class contributes to DEC -/

/-- The record that `i` adds to the DEC of the power-on state, its funct set aside. -/
def recordOf (i : Instr) : Option Decoded :=
  match exec i (fresh false) with
  | .next t => t.dec.getLast?.map (fun d => { d with funct := 0#6 })
  | .fault _ => none
  | .refused _ => none

theorem test_word_R :
    read (fun t => t.dec) (exec (.rOp00 5#5 6#5 7#5 31#5 32#6) (fresh false)) = some [⟨0#6, 5#5, 6#5, 7#5, 32#6, .R⟩] := by
  decide

theorem test_words_J_JL :
    recordOf (.jOp02 1#5 1#5 0#16) = some ⟨2#6, 1#5, 1#5, 0#5, 0#6, .J⟩ ∧
    recordOf (.jlOp03 31#5 31#5 0xffff#16) = some ⟨3#6, 31#5, 31#5, 31#5, 0#6, .J⟩ := by decide

theorem test_words_IA :
    ([Instr.iaOp08, .iaOp09, .iaOp10, .iaOp11, .iaOp12, .iaOp13, .iaOp14, .iaOp15].map
      (fun i => recordOf (i 3#5 8#5 1#16))) =
    (List.range 8).map (fun k => some ⟨BitVec.ofNat 6 (8 + k), 3#5, 8#5, 8#5, 0#6, .I⟩) := by decide

theorem test_words_IL :
    ([Instr.ilOp32, .ilOp33, .ilOp34, .ilOp35, .ilOp36, .ilOp37].map
      (fun i => recordOf (i 3#5 8#5 1#16))) =
    (List.range 6).map (fun k => some ⟨BitVec.ofNat 6 (32 + k), 3#5, 8#5, 8#5, 0#6, .I⟩) := by decide

theorem test_words_IN_low :
    ([Instr.inOp01, .inOp04, .inOp05, .inOp06, .inOp07, .inOp16, .inOp17, .inOp18, .inOp19, .inOp20, .inOp21, .inOp22,
      .inOp23, .inOp24, .inOp25, .inOp26, .inOp27, .inOp28, .inOp29, .inOp30, .inOp31].map
      (fun i => recordOf (i 3#5 8#5 1#16))) =
    ([1, 4, 5, 6, 7] ++ (List.range 16).map (16 + ·)).map (fun p => some ⟨BitVec.ofNat 6 p, 3#5, 8#5, 0#5, 0#6, .I⟩) := by decide

theorem test_words_IN_high :
    ([Instr.inOp38, .inOp39, .inOp40, .inOp41, .inOp42, .inOp43, .inOp44, .inOp45, .inOp46, .inOp47, .inOp48, .inOp49,
      .inOp50, .inOp51, .inOp52, .inOp53, .inOp54, .inOp55, .inOp56, .inOp57, .inOp58, .inOp59, .inOp60, .inOp61, .inOp62,
      .inOp63].map (fun i => recordOf (i 3#5 8#5 1#16))) =
    (List.range 26).map (fun k => some ⟨BitVec.ofNat 6 (38 + k), 3#5, 8#5, 0#5, 0#6, .I⟩) := by decide

/-! ### The classifier and the selector: vectors V1, V2, V6, V7, V9, V10, V15, V16 -/

theorem test_V1_distance_two :
    (started false [0x00a63820#32, 0x00221820#32, 0x00e84820#32]).hz.getLast? = some ⟨.RAW, true, 1, 2, .RS, 7#5⟩ ∧
    (started true [0x00a63820#32, 0x00221820#32, 0x00e84820#32]).edges.getLast? =
      some [⟨0, 2, .MEM, .EX, 7#5, .RS⟩] := by decide

theorem test_V2_four_matches :
    let t := started true [0x00223820#32, 0x00223820#32, 0x00e74820#32]
    t.hz.getLast? = some ⟨.RAW, true, 0, 1, .RS, 7#5⟩ ∧
    t.edges.getLast? = some [⟨0, 2, .MEM, .EX, 7#5, .RS⟩, ⟨0, 2, .MEM, .EX, 7#5, .RT⟩, ⟨1, 2, .EX, .EX, 7#5, .RS⟩,
      ⟨1, 2, .EX, .EX, 7#5, .RT⟩] ∧
    (fwdMask t 2).code = 0b1111#4 ∧ fselA t 2 = .fromEX ∧ fselB t 2 = .fromEX := by decide

theorem test_V6_V9_link_register_producer :
    (started false [0x0c000010#32, 0x03e00008#32]).hz.getLast? = some ⟨.RAW, true, 2, 1, .RS, 31#5⟩ ∧
    (started false [0x0c000010#32, 0x0022f820#32]).hz.getLast? = some ⟨.WAW, true, 0, 1, .RS, 31#5⟩ := by decide

theorem test_V7_V19_jump_words_are_never_consumers :
    (started false [0x00430820#32, 0x08210000#32]).hz.getLast? = some noneRecord ∧
    (started false [0x0022f820#32, 0x0c000010#32]).hz.getLast? = some noneRecord := by decide

/-- V7 under forwarding: the consumer of kind J has fields equal to its producer's destination, and no mask bit and no edge. -/
theorem test_V7_no_mask_for_a_jump_word :
    let t := started true [0x00430820#32, 0x08210000#32]
    (fwdMask t 1).code = 0#4 ∧ fselA t 1 = .regFile ∧ fselB t 1 = .regFile ∧ t.edges = [[], []] := by decide

theorem test_V10_waw_names_the_farther_producer :
    (started false [0x00223820#32, 0x00223820#32, 0x00223820#32]).hz =
      [noneRecord, ⟨.WAW, true, 0, 1, .RS, 7#5⟩, ⟨.WAW, true, 0, 2, .RS, 7#5⟩] := by decide

theorem test_V15_two_producers :
    let t := started true [0x00223820#32, 0x00224020#32, 0x00e84820#32]
    t.hz.getLast? = some ⟨.RAW, true, 0, 1, .RT, 8#5⟩ ∧ (fwdMask t 2).code = 0b0110#4 ∧ fselA t 2 = .fromMEM ∧
    fselB t 2 = .fromEX := by decide

theorem test_V8_V16_register_zero_and_raw_before_waw :
    (started false [0x00000000#32, 0x00000000#32]).hz = [noneRecord, noneRecord] ∧
    (started false [0x00223820#32, 0x00e33820#32]).hz.getLast? = some ⟨.RAW, true, 2, 1, .RS, 7#5⟩ := by decide

/-- The list of P3: five classes, ST = [0, 2, 2, 2, 1, 0, 2], COMPLETION 20. -/
theorem test_P3_stalls :
    let t := started false [0x8c880000#32, 0x21090001#32, 0x01285020#32, 0xac8a0004#32, 0x11400001#32, 0x0c000010#32,
      0x03e00008#32]
    t.st = [0, 2, 2, 2, 1, 0, 2] ∧ t.totalStall = 9 ∧ t.completion = 20 := by decide

/-! ### Commands -/

/-- K1 step 6, K4: NOP and code 7 clear `reject` and nothing else. -/
theorem test_nop_and_reserved7 :
    read id (exec .nop { fresh true with reject := true }) = some (fresh true) ∧
    read id (exec .reserved7 { fresh true with reject := true }) = some (fresh true) := by decide

/-- P1 step 2. -/
theorem test_start_scenarioB :
    read (fun t => (t.n, t.completion, t.cycle, t.running)) (exec (.start scenarioB) (fresh false)) = some (2, 8, 1, true) ∧
    read (fun t => (t.st, t.stage)) (exec (.start scenarioB) (fresh false)) = some ([0, 2], [.IF, .NONE]) := by decide

/-- K2 step 7, NMAX = 2. -/
theorem test_start_rejected :
    read id (exec (.start [0#32, 0#32, 0#32]) { rowT2 4 1 [.EX, .ID] with nmax := .upTo 1 }) =
      some { rowT2 4 1 [.EX, .ID] with nmax := .upTo 1, reject := true } := by decide

/-- P2 step 6: FWD_CFG is kept. -/
theorem test_reset :
    read id (exec .reset { rowT2 3 2 [.EX, .ID] with fwdCfg := true }) = some (fresh true) := by decide

/-- T6: PAUSE inside a freeze; K1 step 3. -/
theorem test_pause :
    read (fun t => (t.running, t.cycle, t.stallRem)) (exec .pause (rowT2 4 1 [.EX, .ID])) = some (false, 4, 1) ∧
    read id (exec .pause (fresh true)) = some (fresh true) := by decide

/-- P4 step 8; P4 step 14 (Finished) and K1 step 2 (NotStarted) change nothing. -/
theorem test_resume :
    read (fun t => t.running) (exec .resume { rowT2 4 1 [.EX, .ID] with running := false }) = some true ∧
    read (fun t => t.running) (exec .resume { rowT2 8 0 [.NONE, .NONE] with running := false, finished := true }) =
      some false ∧
    read (fun t => t.running) (exec .resume (fresh true)) = some false := by decide

/-- P2 step 4: the run is untouched. -/
theorem test_setfwd :
    read (fun t => (t.fwdCfg, t.fwdRun, t.completion)) (exec (.setfwd true) (rowT2 2 0 [.ID, .IF])) =
      some (true, false, 8) := by decide

/-- T2: the trigger, a frozen TICK, the jump, the finish. -/
theorem test_tick :
    read (fun t => (t.cycle, t.stallRem, t.stage)) (exec .tick (rowT2 2 0 [.ID, .IF])) = some (3, 2, [.EX, .ID]) ∧
    read (fun t => (t.cycle, t.stallRem, t.stage)) (exec .tick (rowT2 3 2 [.EX, .ID])) = some (4, 1, [.EX, .ID]) ∧
    read (fun t => (t.cycle, t.stallRem, t.stage)) (exec .tick (rowT2 5 0 [.EX, .ID])) = some (6, 0, [.NONE, .WB]) ∧
    read (fun t => (t.cycle, t.running, t.finished)) (exec .tick (rowT2 8 0 [.NONE, .NONE])) =
      some (8, false, true) := by decide

/-- K1 step 1, P4 steps 6 and 13: TICK when not running. -/
theorem test_tick_stopped :
    read id (exec .tick (fresh true)) = some (fresh true) ∧
    read (fun t => t.cycle) (exec .tick { rowT2 3 0 [.EX, .ID] with running := false }) = some 3 := by decide

/-- P2 step 10: the live selects. -/
theorem test_live_selects :
    let t := { started true scenarioB with cycle := 4, stage := [.MEM, .EX] }
    exSelA t = .fromEX ∧ exSelB t = .regFile := by decide

/-- R8: NMAX = 2 gives 4-bit counters; R81: a 1-bit index. -/
theorem test_field_widths : counterBits 2 = 4 ∧ indexBits 2 = 1 ∧ indexBits 1 = 1 ∧ indexBits 5 = 3 := by decide

/-- R80: kind, forwardable, stallCycles, gdist, gopnd, greg. -/
theorem test_pack : (HazardRecord.mk .RAW true 2 1 .RT 7#5).pack = 0b0111001100111#13 := by decide

/-! ### The step -/

theorem test_step_takes_the_first_command :
    read (fun t => (t.fwdCfg, t.port.length)) (step { fresh false with port := [⟨5#3, true, []⟩, ⟨6#3, false, []⟩] }) =
      some (true, 1) ∧
    read id (step (fresh true)) = some (fresh true) := by decide

theorem test_a_table_row_is_run_by_the_next_step :
    read (fun t => (t.n, t.iw, t.completion, t.stage)) (step ((fresh false).withFetchWord 32 0x00a63820)) =
      some (1, [0x00a63820#32], 5, [.IF]) ∧
    read id (step ((fresh false).withFetchWord 8 6)) = some (fresh false) ∧
    decodeTableWord 8 5 = some (.setfwd false) ∧ decodeTableWord 32 0xffffffff = some (.inOp63 31#5 31#5 0xffff#16) := by
  decide

/-! ### Witnesses of the statements' hypotheses -/

/-- A state whose tables are those of `started`, at the rows of trace T2: between STALL_REM = 0 rows and inside the freeze. -/
theorem inv_rowT2_cycle2 : Inv (rowT2 2 0 [.ID, .IF]) where
  lengths := by decide
  capacity := by decide
  tables := by decide
  totals := by decide
  idle := by decide
  bounds := by decide
  runningRun := by decide
  finishedRun := by decide
  shown := ⟨2, by decide, by decide, by decide⟩
  freeze h := absurd h (by decide)
  thaw _ := by decide

theorem inv_rowT2_frozen : Inv (rowT2 4 1 [.EX, .ID]) where
  lengths := by decide
  capacity := by decide
  tables := by decide
  totals := by decide
  idle := by decide
  bounds := by decide
  runningRun := by decide
  finishedRun := by decide
  shown := ⟨3, by decide, by decide, by decide⟩
  freeze _ := ⟨1, by decide, by decide, by decide, by decide⟩
  thaw h := absurd h (by decide)

theorem inv_rowT2_last : Inv (rowT2 8 0 [.NONE, .NONE]) where
  lengths := by decide
  capacity := by decide
  tables := by decide
  totals := by decide
  idle := by decide
  bounds := by decide
  runningRun := by decide
  finishedRun := by decide
  shown := ⟨8, by decide, by decide, by decide⟩
  freeze h := absurd h (by decide)
  thaw _ := by decide

/-- V1's list with one word more, at CYCLE 3: instruction 2 (stall 1) is next in ID, and instruction 3 follows it. -/
def rowV1 : State :=
  { started false [0x00a63820#32, 0x00221820#32, 0x00e84820#32, 0x00222020#32] with
    cycle := 3, stage := [.EX, .ID, .IF, .NONE] }

theorem inv_rowV1 : Inv rowV1 where
  lengths := by decide
  capacity := by decide
  tables := by decide
  totals := by decide
  idle := by decide
  bounds := by decide
  runningRun := by decide
  finishedRun := by decide
  shown := ⟨3, by decide, by decide, by decide⟩
  freeze h := absurd h (by decide)
  thaw _ := by decide

/-- P2 step 10: forwarding, instruction 1 in EX. -/
def rowP2 : State := { started true scenarioB with cycle := 4, stage := [.MEM, .EX] }

theorem inv_rowP2 : Inv rowP2 where
  lengths := by decide
  capacity := by decide
  tables := by decide
  totals := by decide
  idle := by decide
  bounds := by decide
  runningRun := by decide
  finishedRun := by decide
  shown := ⟨4, by decide, by decide, by decide⟩
  freeze h := absurd h (by decide)
  thaw _ := by decide

/-- A state of the invariant with NMAX = 2, for the capacity statement. -/
theorem inv_rowT2_capacity2 : Inv { rowT2 2 0 [.ID, .IF] with nmax := .upTo 1 } :=
  ⟨inv_rowT2_cycle2.lengths, .inr (by decide), inv_rowT2_cycle2.tables, inv_rowT2_cycle2.totals, inv_rowT2_cycle2.idle,
   inv_rowT2_cycle2.bounds, inv_rowT2_cycle2.runningRun, inv_rowT2_cycle2.finishedRun, inv_rowT2_cycle2.shown,
   inv_rowT2_cycle2.freeze, inv_rowT2_cycle2.thaw⟩

/-- O2: a command's presentation with its lanes idle, for a command with each kind of argument. -/
theorem witness_EncodeOfDecodeIsIdentity :
    (PortCommand.mk 6#3 false []).wf = true ∧ (PortCommand.mk 5#3 true []).wf = true ∧
    (PortCommand.mk 1#3 false scenarioB).wf = true := by decide

/-- O4: a word with p = 0, and words of the other clauses (p = 3, 8, 15, 32, 37, and none of them). -/
theorem witness_DecodedRecordByOpcode :
    (0x00a63820#32 : Word).toNat / 2 ^ 26 = 0 ∧ (0x0fffffff#32 : Word).toNat / 2 ^ 26 = 3 ∧
    (0x20080001#32 : Word).toNat / 2 ^ 26 = 8 ∧ (0x3c081234#32 : Word).toNat / 2 ^ 26 = 15 ∧
    (0x81280000#32 : Word).toNat / 2 ^ 26 = 32 ∧ (0x95280000#32 : Word).toNat / 2 ^ 26 = 37 ∧
    (0x40084800#32 : Word).toNat / 2 ^ 26 = 16 ∧ (0x99280000#32 : Word).toNat / 2 ^ 26 = 38 := by decide

/-- O10, O13, O19, O31 to O33, O35, O38, O39: a list that a START is accepted with, unbounded and at the boundary of NMAX = 2. -/
theorem witness_StartAcceptedReplacesTheRun :
    (fresh false).nmax.admits scenarioB.length = true ∧ (Capacity.upTo 1).admits scenarioB.length = true ∧
    (Capacity.upTo 0).admits [0#32].length = true := by decide

/-- O12: both cases of RESUME. -/
theorem witness_ResumeSetsRunningOfAStartedUnfinishedRun :
    ((rowT2 4 1 [.EX, .ID]).cycle > 0 ∧ (rowT2 4 1 [.EX, .ID]).finished = false) ∧
    ¬((fresh true).cycle > 0 ∧ (fresh true).finished = false) := by decide

/-- O17: a list of NMAX + 1 words. -/
theorem witness_StartRejectedChangesNoState :
    ({ fresh false with nmax := .upTo 1 } : State).nmax = .upTo 1 ∧ 1 + 1 < [0#32, 0#32, (0#32 : Word)].length := by decide

/-- O18: a step that rejects its command, and one that does not. -/
theorem witness_RejectIsExactlyAStartOutsideItsPreconditions :
    (decodeCommand (takeCommand { fresh false with port := [⟨1#3, false, []⟩] }).1).wf .unbounded = false ∧
    (decodeCommand (takeCommand (fresh false)).1).wf .unbounded = true := by decide

/-- O20: the same START from power-on and inside a freeze. -/
theorem witness_RepeatedStartGivesTheSameRun :
    (fresh false).nmax.admits scenarioB.length = true ∧ (rowT2 4 1 [.EX, .ID]).nmax = (fresh false).nmax ∧
    (rowT2 4 1 [.EX, .ID]).fwdCfg = (fresh false).fwdCfg := by decide

/-- O21: a state of each clause. -/
theorem witness_TickIsANoOpUnlessRunningAndUnfinished :
    (fresh true).running = false ∧
    ((rowT2 4 1 [.EX, .ID]).running = true ∧ (rowT2 4 1 [.EX, .ID]).finished = false ∧
      (rowT2 4 1 [.EX, .ID]).stallRem > 0) ∧
    ((rowT2 8 0 [.NONE, .NONE]).stallRem = 0 ∧
      (rowT2 8 0 [.NONE, .NONE]).cycle + 1 > (rowT2 8 0 [.NONE, .NONE]).completion) ∧
    ((rowT2 7 0 [.NONE, .NONE]).stallRem = 0 ∧
      (rowT2 7 0 [.NONE, .NONE]).cycle + 1 ≤ (rowT2 7 0 [.NONE, .NONE]).completion) := by decide

/-- O22: inside a freeze. -/
theorem witness_FrozenTickCountsDownAndLeavesTheStageMap :
    (rowT2 4 1 [.EX, .ID]).running = true ∧ (rowT2 4 1 [.EX, .ID]).finished = false ∧
    (rowT2 4 1 [.EX, .ID]).stallRem > 0 := by decide

/-- O23: the TICK into CYCLE 3 of T2, whose trigger fires on instruction 1; an index that is shown and one that is not; and the
last ordinary TICK, into COMPLETION, at which no trigger fires. -/
theorem witness_OrdinaryTickComputesTheStageMapAndTheTrigger :
    let s := rowT2 2 0 [.ID, .IF]
    let u := rowT2 7 0 [.NONE, .NONE]
    (s.running = true ∧ s.finished = false ∧ s.stallRem = 0 ∧ s.cycle + 1 ≤ s.completion) ∧
    (1 < s.n ∧ s.cycle + 1 = 1 + 2 + (s.st.take 1).sum ∧ s.st[1]? = some 2) ∧
    (0 ≤ ((s.cycle + 1 : Nat) : Int) - 1 - 1 - ((s.st.take 1).sum : Nat)) ∧
    (u.running = true ∧ u.finished = false ∧ u.stallRem = 0 ∧ u.cycle + 1 = u.completion) ∧
    ¬(((u.cycle + 1 : Nat) : Int) - 0 - 1 - ((u.st.take 0).sum : Nat) < 5) ∧
    (∀ k, k < u.n → u.cycle + 1 ≠ k + 2 + (u.st.take k).sum) := by decide

/-- O24: CYCLE = COMPLETION. -/
theorem witness_FinishingTickCapsTheCycleAndEmptiesThePipeline :
    Inv (rowT2 8 0 [.NONE, .NONE]) ∧ (rowT2 8 0 [.NONE, .NONE]).running = true ∧
    (rowT2 8 0 [.NONE, .NONE]).stallRem = 0 ∧
    (rowT2 8 0 [.NONE, .NONE]).cycle + 1 > (rowT2 8 0 [.NONE, .NONE]).completion :=
  ⟨inv_rowT2_last, by decide, by decide, by decide⟩

/-- O25: two instructions shown at once. -/
theorem witness_OneInstructionPerStageInProgramOrder :
    Inv (rowT2 4 1 [.EX, .ID]) ∧ (0 : Nat) < 1 ∧ (rowT2 4 1 [.EX, .ID]).stage[0]? = some .EX ∧
    (rowT2 4 1 [.EX, .ID]).stage[1]? = some .ID ∧ Stage.EX ≠ .NONE ∧ Stage.ID ≠ .NONE :=
  ⟨inv_rowT2_frozen, by decide, by decide, by decide, by decide, by decide⟩

/-- O26: a stall of 2 on the last instruction, and a stall of 1 with an instruction behind it; and a count j below q and equal
to it for each. -/
theorem witness_FreezeHoldsTheMapAndTheInstructionThenJumps :
    (Inv (rowT2 2 0 [.ID, .IF]) ∧ (rowT2 2 0 [.ID, .IF]).running = true ∧ (rowT2 2 0 [.ID, .IF]).stallRem = 0 ∧
      1 < (rowT2 2 0 [.ID, .IF]).n ∧ (rowT2 2 0 [.ID, .IF]).cycle + 1 = idCycle (rowT2 2 0 [.ID, .IF]).st 1 ∧
      (rowT2 2 0 [.ID, .IF]).st[1]? = some 2 ∧ (1 : Nat) < 2 ∧ (2 : Nat) = 2) ∧
    (Inv rowV1 ∧ rowV1.running = true ∧ rowV1.stallRem = 0 ∧ 2 + 1 < rowV1.n ∧
      rowV1.cycle + 1 = idCycle rowV1.st 2 ∧ rowV1.st[2]? = some 1 ∧ (0 : Nat) < 1 ∧ (1 : Nat) = 1) :=
  ⟨⟨inv_rowT2_cycle2, by decide, by decide, by decide, by decide, by decide, by decide, rfl⟩,
   ⟨inv_rowV1, by decide, by decide, by decide, by decide, by decide, by decide, rfl⟩⟩

/-- O27: a START that is accepted, and a TICK count at each boundary. -/
theorem witness_RunFinishesAfterExactlyCompletionTicks :
    (fresh false).nmax.admits scenarioB.length = true ∧ 0 < (started false scenarioB).completion ∧
    7 < (started false scenarioB).completion := by decide

/-- O28, O43, O44, O51: states of the invariant, with a run and inside a freeze, with two records. -/
theorem witness_CycleNeverDecreasesAndNeverPassesCompletion :
    Inv (rowT2 4 1 [.EX, .ID]) ∧ Inv (rowT2 8 0 [.NONE, .NONE]) ∧ noneRecord ∈ (rowT2 4 1 [.EX, .ID]).hz :=
  ⟨inv_rowT2_frozen, inv_rowT2_last, by decide⟩

/-- O29: a running state inside a freeze. -/
theorem witness_PauseTicksResumeLeaveARunningRunAsItWas :
    Inv (rowT2 4 1 [.EX, .ID]) ∧ (rowT2 4 1 [.EX, .ID]).running = true :=
  ⟨inv_rowT2_frozen, by decide⟩

/-- The match bit MA1 of scenario B. -/
theorem matchBit_scenarioB : MatchBit (scenarioB.map decodeRecord) 1 1 .RS :=
  ⟨.inl rfl, by decide, decodeRecord 0x00e84820#32, decodeRecord 0x00a63820#32, rfl, rfl, by decide, by decide⟩

theorem examined_scenarioB : Examined (scenarioB.map decodeRecord) 1 :=
  ⟨by decide, decodeRecord 0x00e84820#32, rfl, by decide⟩

/-- O30, O33, O37, O39: an accepted START without forwarding (and the same with it), an examined index with a match, whose
record is RAW. -/
theorem witness_StallIsTheMaximumOverMatchesWithoutForwarding :
    (fresh false).nmax.admits scenarioB.length = true ∧ (fresh false).fwdCfg = false ∧ (fresh true).fwdCfg = true ∧
    1 < scenarioB.length ∧ Examined (scenarioB.map decodeRecord) 1 ∧ HasMatch (scenarioB.map decodeRecord) 1 ∧
    MatchBit (scenarioB.map decodeRecord) 1 1 .RS ∧
    (∃ h, (started false scenarioB).hz[1]? = some h ∧ h.kind = .RAW) ∧
    (∃ h, (started true scenarioB).hz[1]? = some h ∧ h.kind = .RAW) :=
  ⟨by decide, by decide, by decide, by decide, examined_scenarioB, ⟨1, .RS, matchBit_scenarioB⟩, matchBit_scenarioB,
   ⟨⟨.RAW, true, 2, 1, .RS, 7#5⟩, by decide, by decide⟩, ⟨⟨.RAW, true, 0, 1, .RS, 7#5⟩, by decide, by decide⟩⟩

/-- V10's list: index 1 has one candidate, index 2 has two, and neither has a match. -/
def listV10 : List Word := [0x00223820#32, 0x00223820#32, 0x00223820#32]

theorem no_match_listV10 : ∀ i, i = 1 ∨ i = 2 → ¬HasMatch (listV10.map decodeRecord) i := by
  have hc : ∀ i, i = 1 ∨ i = 2 → (listV10.map decodeRecord)[i]? = some (decodeRecord 0x00223820#32) := by
    rintro i (rfl | rfl) <;> rfl
  intro i hi
  rw [hasMatch_iff (hc i hi)]
  rcases hi with rfl | rfl <;> decide

/-- O34: an examined index without a match, whose destination is written at distance 1 alone, and one at both distances. -/
theorem witness_WawRecordExactlyWithoutAMatch :
    (Examined (listV10.map decodeRecord) 1 ∧ ¬HasMatch (listV10.map decodeRecord) 1 ∧
      WritesSame (listV10.map decodeRecord) 1 1 ∧ ¬WritesSame (listV10.map decodeRecord) 1 2) ∧
    (Examined (listV10.map decodeRecord) 2 ∧ ¬HasMatch (listV10.map decodeRecord) 2 ∧
      WritesSame (listV10.map decodeRecord) 2 2) :=
  ⟨⟨⟨by decide, _, rfl, by decide⟩, no_match_listV10 1 (.inl rfl),
    ⟨.inl rfl, by decide, _, _, rfl, rfl, by decide, by decide⟩, fun h => absurd h.2.1 (by decide)⟩,
   ⟨⟨by decide, _, rfl, by decide⟩, no_match_listV10 2 (.inr rfl),
    ⟨.inr rfl, by decide, _, _, rfl, rfl, by decide, by decide⟩⟩⟩

/-- O34, the last clause: an examined index with no match and no candidate (V1, index 1). -/
theorem witness_NoneRecordOfAnExaminedIndex :
    let dec := [0x00a63820#32, 0x00221820#32].map decodeRecord
    Examined dec 1 ∧ ¬HasMatch dec 1 ∧ ¬WritesSame dec 1 1 ∧ ¬WritesSame dec 1 2 := by
  refine ⟨⟨by decide, _, rfl, by decide⟩, ?_, ?_, ?_⟩
  · rw [hasMatch_iff (c := decodeRecord 0x00221820#32) rfl]
    decide
  · rw [writesSame_iff (c := decodeRecord 0x00221820#32) rfl (.inl rfl)]
    decide
  · rw [writesSame_iff (c := decodeRecord 0x00221820#32) rfl (.inr rfl)]
    decide

/-- O35: index 0, and an index of kind J. -/
theorem witness_IndexZeroAndJumpWordsAreNeverConsumers :
    let dec := (started false [0x00430820#32, 0x08210000#32]).dec
    (∃ c, dec[0]? = some c) ∧ (∃ c, dec[1]? = some c ∧ c.kind = .J) :=
  ⟨⟨_, rfl⟩, ⟨_, rfl, by decide⟩⟩

/-- O36: two lists that share the window of index 3 and differ before and after it. -/
theorem witness_HazardRecordDependsOnTheWindowAlone :
    let ws := [0x00a63820#32, 0x00221820#32, 0x00222020#32, (0x00e84820#32 : Word)]
    let ws' := [0x00223820#32, 0x00221820#32, 0x00222020#32, 0x00e84820#32, (0x00000000#32 : Word)]
    (fresh false).nmax.admits ws.length = true ∧ (fresh false).nmax.admits ws'.length = true ∧ 3 < ws.length ∧
    3 < ws'.length ∧ (∀ j, j ≤ 3 → 3 ≤ j + 2 → ws[j]?.map decodeRecord = ws'[j]?.map decodeRecord) ∧
    ws[0]? ≠ ws'[0]? := by decide

/-- O37, O38: an accepted START under forwarding, both ends of its index range, an index with edges, and one whose record is not
RAW. -/
theorem witness_EdgesAreExactlyTheMatchesUnderForwarding :
    (fresh true).nmax.admits scenarioB.length = true ∧ 0 < scenarioB.length ∧ 1 < scenarioB.length ∧
    (started true scenarioB).fwdRun = true ∧
    (started true scenarioB).edges = [[], [⟨0, 1, .EX, .EX, 7#5, .RS⟩]] ∧
    (∃ h, (started true scenarioB).hz[0]? = some h ∧ h.kind ≠ .RAW) :=
  ⟨by decide, by decide, by decide, by decide, by decide, ⟨noneRecord, by decide, by decide⟩⟩

/-- O39: an examined index under each policy; index 0; and an index of kind J whose fields equal its producer's destination (V7),
which the match bits alone would select. -/
theorem witness_SelectsFollowTheMatchBitsNearestFirst :
    let t := started true [0x00430820#32, 0x08210000#32]
    Examined (started true scenarioB).dec 1 ∧ (started true scenarioB).fwdRun = true ∧
    Examined (started false scenarioB).dec 1 ∧ (started false scenarioB).fwdRun = false ∧
    (∃ c, t.dec[0]? = some c) ∧ (∃ c, t.dec[1]? = some c ∧ c.kind = .J) ∧ MatchBit t.dec 1 1 .RS :=
  ⟨examined_scenarioB, by decide, examined_scenarioB, by decide, ⟨_, rfl⟩, ⟨_, rfl, by decide⟩,
   ⟨.inl rfl, by decide, _, _, rfl, rfl, by decide, by decide⟩⟩

/-- O40: an instruction in EX under forwarding; a state with none in EX; a run without forwarding. -/
theorem witness_LiveSelectsAreThoseOfTheInstructionInEX :
    (Inv rowP2 ∧ rowP2.stage[1]? = some .EX) ∧
    (Inv (rowT2 2 0 [.ID, .IF]) ∧ ∀ e : Nat, (rowT2 2 0 [.ID, .IF]).stage[e]? ≠ some .EX) ∧
    (Inv (rowT2 4 1 [.EX, .ID]) ∧ (rowT2 4 1 [.EX, .ID]).fwdRun = false) := by
  refine ⟨⟨inv_rowP2, by decide⟩, ⟨inv_rowT2_cycle2, fun e => ?_⟩, ⟨inv_rowT2_frozen, by decide⟩⟩
  match e with
  | 0 => decide
  | 1 => decide
  | n + 2 => simp [rowT2]

/-- O41: two words of opcode 0 that differ in the ignored bits (DV1, DV3), and two of opcode 2 that differ in the target. -/
theorem witness_IgnoredBitsOfWordsChangeNothingTheAnalysisShows :
    (fresh false).nmax.admits [0x00a63820#32, (0x08210000#32 : Word)].length = true ∧
    List.Forall₂ (fun w w' : Word => w.extractLsb' 16 16 = w'.extractLsb' 16 16 ∧
      (w.extractLsb' 26 6 = 0#6 → w.extractLsb' 11 5 = w'.extractLsb' 11 5))
      [0x00a63820#32, 0x08210000#32] [0x00a63fe1#32, 0x0821ffff#32] :=
  ⟨by decide, .cons (by decide) (.cons (by decide) .nil)⟩

/-- O43, O44: a state of the invariant from which START is accepted and one from which it is rejected. -/
theorem witness_EveryStepKeepsTheInvariant :
    Inv (rowT2 4 1 [.EX, .ID]) ∧ (rowT2 4 1 [.EX, .ID]).nmax.admits scenarioB.length = true ∧
    (rowT2 4 1 [.EX, .ID]).nmax.admits ([] : List Word).length = false :=
  ⟨inv_rowT2_frozen, by decide, by decide⟩

/-- O44: a state of each top-level state but NotStarted, which is State.reset's. -/
theorem witness_TransitionTableOfTheTopLevelStates :
    topState (rowT2 4 1 [.EX, .ID]) = some .Running ∧
    topState { rowT2 4 1 [.EX, .ID] with running := false } = some .Paused ∧
    topState { rowT2 8 0 [.NONE, .NONE] with running := false, finished := true } = some .Finished ∧
    topState (fresh false) = some .NotStarted := by decide

/-- O45: a sequence without a START. -/
theorem witness_PolicyChangeIsInvisibleUntilTheNextStart :
    ∀ ws, Instr.start ws ∉ [Instr.setfwd true, .tick, .pause, .resume, .reset] := by
  intro ws
  simp

/-- O46: a host that presents neither START nor RESET, and a step that takes no SETFWD. -/
theorem witness_OnlyStartAndResetChangeTheListAndItsAnalysis :
    let s := { rowT2 2 0 [.ID, .IF] with port := [⟨6#3, false, []⟩, ⟨5#3, true, []⟩] }
    (∀ p ∈ s.port, p.cmd ≠ 1#3 ∧ p.cmd ≠ 2#3) ∧ (takeCommand s).1.cmd ≠ 5#3 := by decide

/-- O47: a port with a command, and an empty one. -/
theorem witness_StepRunsTheDecodedCommand :
    ({ fresh false with port := [⟨6#3, false, []⟩] } : State).port = ⟨6#3, false, []⟩ :: [] ∧ (fresh false).port = [] := by
  decide

/-- O50: a state of the invariant with NMAX = 2. -/
theorem witness_CountersAreBoundedByTheCapacity :
    Inv { rowT2 2 0 [.ID, .IF] with nmax := .upTo 1 } ∧
    ({ rowT2 2 0 [.ID, .IF] with nmax := .upTo 1 } : State).nmax = .upTo 1 ∧
    (rowT2 2 0 [.ID, .IF]).st[0]? = some 0 :=
  ⟨inv_rowT2_capacity2, rfl, by decide⟩

/-- O51: two records of a run of the invariant. -/
theorem witness_PackedHazardRecordsOfARunLoseNothing :
    Inv (rowT2 4 1 [.EX, .ID]) ∧ noneRecord ∈ (rowT2 4 1 [.EX, .ID]).hz ∧
    (⟨.RAW, true, 2, 1, .RS, 7#5⟩ : HazardRecord) ∈ (rowT2 4 1 [.EX, .ID]).hz :=
  ⟨inv_rowT2_frozen, by decide, by decide⟩

end Sys2Proof.Machine
end

section
/-! SUPPORT. The scope statements (spec/00_scope.md): a run finishes after exactly COMPLETION TICKs (R14), every count stays
within its width (R8), and every instruction answers a next state (R13). -/

namespace Sys2Proof.Machine

/-! ### A run on its way to COMPLETION -/

/-- A run that is running and not finished, with the totals of R131, whose freeze, if there is one, ends by COMPLETION.
An accepted START establishes it and every TICK before COMPLETION keeps it. -/
structure Advancing (s : State) : Prop where
  running : s.running = true
  unfinished : s.finished = false
  stalls : s.st.length = s.n
  total : s.completion = s.n + 4 + s.st.sum
  thawsInTime : s.cycle + s.stallRem ≤ s.completion

theorem advancing_startRun (ws : List Word) (s : State) : Advancing (startRun ws s) where
  running := rfl
  unfinished := rfl
  stalls := by simp
  total := by simp
  thawsInTime := by simp only [startRun_cycle, startRun_stallRem, startRun_completion]; omega

/-- The freeze that a trigger at cycle c starts ends by COMPLETION (R166). -/
theorem add_trigger_le {n c : Nat} {st : List Nat} (hl : st.length = n) (hc : c ≤ n + 4 + st.sum) :
    c + trigger n st c ≤ n + 4 + st.sum := by
  obtain ⟨h0, -⟩ | ⟨k, hk, hid, hq, -⟩ := trigger_cases n st c
  · rwa [h0]
  · have := freeze_end_lt hk hl
    omega

/-- Before COMPLETION a TICK is frozen or ordinary, and CYCLE advances by one on both paths (R157, R162, R166). -/
theorem Advancing.tick {s : State} (h : Advancing s) (hc : s.cycle < s.completion) :
    ∃ t, exec .tick s = .next t ∧ Advancing t ∧ t.cycle = s.cycle + 1 ∧ t.completion = s.completion := by
  obtain ⟨hr, hf, hl, htot, hthaw⟩ := h
  rcases Nat.eq_zero_or_pos s.stallRem with hs | hs
  · refine ⟨tickOrdinary s, exec_tick_ordinary hr hf hs hc, ⟨hr, hf, hl, htot, ?_⟩, rfl, rfl⟩
    have := add_trigger_le hl (c := s.cycle + 1) (by omega)
    simpa [htot] using this
  · refine ⟨tickFrozen s, exec_tick_frozen hr hf hs, ⟨hr, hf, hl, htot, ?_⟩, rfl, rfl⟩
    simp only [tickFrozen_cycle, tickFrozen_stallRem, tickFrozen_completion]
    omega

theorem Advancing.after_ticks {s : State} (h : Advancing s) (j : Nat) (hj : s.cycle + j ≤ s.completion) :
    ∃ u, runTicks j s = .next u ∧ Advancing u ∧ u.cycle = s.cycle + j ∧ u.completion = s.completion := by
  induction j with
  | zero => exact ⟨s, rfl, h, rfl, rfl⟩
  | succ j ih =>
    obtain ⟨u, hrun, hu, hcyc, hcomp⟩ := ih (by omega)
    obtain ⟨t, htick, ht, hcyc', hcomp'⟩ := hu.tick (by omega)
    exact ⟨t, (runTicks_add_one hrun).trans htick, ht, by omega, by omega⟩

/-- At COMPLETION no freeze is left, so the TICK is the finishing one (R161). -/
theorem Advancing.tick_at_completion {s : State} (h : Advancing s) (hc : s.cycle = s.completion) :
    exec .tick s = .next (tickFinish s) := by
  have := h.thawsInTime
  exact exec_tick_finish h.running h.unfinished (by omega) (by omega)

/-- Settles O27: START leaves an advancing run at CYCLE 1, COMPLETION - 1 TICKs bring it to CYCLE = COMPLETION, and the next
one finishes it. -/
theorem runFinishesAfterExactlyCompletionTicks : Obligations.RunFinishesAfterExactlyCompletionTicks := by
  intro ws s hadm
  have hrun := advancing_startRun ws s
  have hpos : 0 < (startRun ws s).completion := by have := hrun.total; omega
  refine ⟨startRun ws s, exec_start_accepted hadm, ?_, ?_⟩
  · intro j hj
    obtain ⟨u, hu, hadv, hcyc, -⟩ := hrun.after_ticks j (by rw [startRun_cycle]; omega)
    exact ⟨u, hu, hadv.unfinished, hadv.running, by rw [hcyc, startRun_cycle]; omega⟩
  · obtain ⟨u, hu, hadv, hcyc, hcomp⟩ :=
      hrun.after_ticks ((startRun ws s).completion - 1) (by rw [startRun_cycle]; omega)
    have hlast : u.cycle = u.completion := by rw [hcyc, hcomp, startRun_cycle]; omega
    have hfin := (runTicks_add_one hu).trans (hadv.tick_at_completion hlast)
    rw [Nat.sub_add_cancel hpos] at hfin
    exact ⟨tickFinish u, hfin, rfl, rfl, hcomp⟩

/-! ### The bounds of the counts -/

theorem stallAt_le_two {st : List Nat} (h : ∀ q ∈ st, q ≤ 2) (k : Nat) : stallAt st k ≤ 2 := by
  unfold stallAt
  cases hk : st[k]? with
  | none => exact Nat.zero_le 2
  | some q => exact h q (List.mem_of_getElem? hk)

/-- Counts of at most 2, of which the first is 0, add up to at most 2 for each of the others. -/
theorem sum_stalls_le {st : List Nat} (h : ∀ q ∈ st, q ≤ 2) (h0 : ∀ q, st[0]? = some q → q = 0) :
    st.sum ≤ 2 * (st.length - 1) := by
  cases st with
  | nil => simp
  | cons q rest =>
    obtain rfl : q = 0 := h0 q rfl
    have := List.sum_le_card_nsmul rest 2 fun x hx => h x (List.mem_cons_of_mem _ hx)
    simp only [smul_eq_mul] at this
    simp only [List.sum_cons, List.length_cons]
    omega

theorem Inv.st_le_two {s : State} (h : Inv s) : ∀ q ∈ s.st, q ≤ 2 := by
  obtain ⟨-, -, -, hst⟩ := h.tables
  rw [hst]
  exact fun q => analyzeStalls_le_two

theorem Inv.st_zero {s : State} (h : Inv s) : ∀ q, s.st[0]? = some q → q = 0 := by
  obtain ⟨-, -, -, hst⟩ := h.tables
  rw [hst]
  exact fun q => analyzeStalls_zero

/-- What is left of a freeze is at most the stall count of the instruction it belongs to (R165). -/
theorem Inv.stallRem_le_two {s : State} (h : Inv s) : s.stallRem ≤ 2 := by
  rcases Nat.eq_zero_or_pos s.stallRem with hs | hs
  · omega
  · obtain ⟨k, -, hid, hend, -⟩ := h.freeze hs
    have := stallAt_le_two h.st_le_two k
    omega

theorem Inv.totalStall_le {s : State} (h : Inv s) : s.totalStall ≤ 2 * (s.n - 1) := by
  rw [h.totals.1, ← h.st_length]
  exact sum_stalls_le h.st_le_two h.st_zero

/-- N is at most NMAX = p + 1 (R24). -/
theorem Inv.n_le {s : State} (h : Inv s) {p : Nat} (hp : s.nmax = .upTo p) : s.n ≤ p + 1 := by
  rcases h.capacity with h0 | hadm
  · omega
  · simp only [hp, Capacity.admits, decide_eq_true_eq] at hadm
    exact hadm.2

/-- The COMPLETION of the longest list in which every instruction but the first stalls twice (R8). -/
theorem Inv.completion_le {s : State} (h : Inv s) {p : Nat} (hp : s.nmax = .upTo p) :
    s.completion ≤ 3 * (p + 1) + 2 := by
  have hn := h.n_le hp
  have hstall := h.totalStall_le
  rw [h.totals.2]
  split <;> omega

theorem lt_two_pow_counterBits (nmax : Nat) : 3 * nmax + 2 < 2 ^ counterBits nmax := by
  have hm : ¬3 * nmax + 3 ≤ 1 := by omega
  simp only [counterBits, ceilLog2, hm, if_false]
  exact Nat.lt_log2_self

/-- Settles O50, each bound by its own lemma over the invariant. -/
theorem countersAreBoundedByTheCapacity : Obligations.CountersAreBoundedByTheCapacity := by
  intro s p h hp
  exact ⟨h.st_le_two, h.stallRem_le_two, h.st_zero, h.totalStall_le, h.cycle_le, h.completion_le hp,
    lt_two_pow_counterBits (p + 1)⟩

/-! ### Every instruction has a next state -/

/-- Settles O49: a command answers the state its rule gives, and a word joins its record to DEC. -/
theorem noInstructionFaultsOrIsRefused : Obligations.NoInstructionFaultsOrIsRefused := by
  intro i s
  cases i
  case nop => exact ⟨noChange s, rfl⟩
  case start words => exact ⟨if s.nmax.admits words.length then startRun words s else rejectStart s, rfl⟩
  case reset => exact ⟨_, rfl⟩
  case pause => exact ⟨{ s with running := false, reject := false }, rfl⟩
  case resume =>
    exact ⟨if s.cycle > 0 ∧ s.finished = false then { s with running := true, reject := false } else noChange s, rfl⟩
  case setfwd en => exact ⟨{ s with fwdCfg := en, reject := false }, rfl⟩
  case tick =>
    obtain ⟨-, h⟩ | ⟨-, -, -, h⟩ | ⟨-, -, -, -, h⟩ | ⟨-, -, -, -, h⟩ := exec_tick_cases s <;> exact ⟨_, h⟩
  case reserved7 => exact ⟨noChange s, rfl⟩
  all_goals exact ⟨contribute _ s, rfl⟩

end Sys2Proof.Machine
end

section
/-! SUPPORT. The state statements (spec/10_state.md): the power-on values (R36), the invariant of every reachable state (R37),
CYCLE (R26), and which commands write the list, its analysis and FWD_CFG (R23, R24, R33). -/

namespace Sys2Proof.Machine

/-! ### What a command does -/

/-- What the command `p` of a step can make of the state `s`, one constructor for each rule of spec/44_commands.md: `unchanged`
is NOP, code 7, a rejected START, and a RESUME or TICK whose test fails. -/
inductive CommandEffect (p : PortCommand) (s : State) : State → Prop
  | unchanged (r : Bool) : CommandEffect p s { s with reject := r }
  | started (hcmd : p.cmd = 1#3) (hadm : s.nmax.admits p.words.length = true) : CommandEffect p s (startRun p.words s)
  | discarded (hcmd : p.cmd = 2#3) :
      CommandEffect p s { State.reset with fwdCfg := s.fwdCfg, nmax := s.nmax, port := s.port }
  | paused : CommandEffect p s { s with running := false, reject := false }
  | resumed (hcyc : s.cycle > 0) (hf : s.finished = false) : CommandEffect p s { s with running := true, reject := false }
  | policy (hcmd : p.cmd = 5#3) : CommandEffect p s { s with fwdCfg := p.en, reject := false }
  | frozen (hr : s.running = true) (hf : s.finished = false) (hs : s.stallRem > 0) : CommandEffect p s (tickFrozen s)
  | finishing (hr : s.running = true) (hf : s.finished = false) (hs : s.stallRem = 0)
      (hc : s.cycle + 1 > s.completion) : CommandEffect p s (tickFinish s)
  | ordinary (hr : s.running = true) (hf : s.finished = false) (hs : s.stallRem = 0)
      (hc : s.cycle + 1 ≤ s.completion) : CommandEffect p s (tickOrdinary s)

/-- The command a port presentation decodes to, with its code where a statement speaks of the code (R77, R78). -/
theorem decodeCommand_cases (p : PortCommand) :
    decodeCommand p = .nop ∨ (p.cmd = 1#3 ∧ decodeCommand p = .start p.words) ∨
    (p.cmd = 2#3 ∧ decodeCommand p = .reset) ∨ decodeCommand p = .pause ∨ decodeCommand p = .resume ∨
    (p.cmd = 5#3 ∧ decodeCommand p = .setfwd p.en) ∨ decodeCommand p = .tick ∨ decodeCommand p = .reserved7 := by
  obtain ⟨cmd, en, words⟩ := p
  have hcode : ∀ c : BitVec 3,
      c = 0#3 ∨ c = 1#3 ∨ c = 2#3 ∨ c = 3#3 ∨ c = 4#3 ∨ c = 5#3 ∨ c = 6#3 ∨ c = 7#3 := by decide
  obtain rfl | rfl | rfl | rfl | rfl | rfl | rfl | rfl := hcode cmd <;> simp [decodeCommand]

theorem exec_tick_effect (p : PortCommand) (s : State) : ∃ t, exec .tick s = .next t ∧ CommandEffect p s t := by
  obtain ⟨-, h⟩ | ⟨hr, hf, hs, h⟩ | ⟨hr, hf, hs, hc, h⟩ | ⟨hr, hf, hs, hc, h⟩ := exec_tick_cases s
  · exact ⟨_, h, .unchanged false⟩
  · exact ⟨_, h, .frozen hr hf hs⟩
  · exact ⟨_, h, .finishing hr hf hs hc⟩
  · exact ⟨_, h, .ordinary hr hf hs hc⟩

theorem exec_resume_effect (p : PortCommand) (s : State) : ∃ t, exec .resume s = .next t ∧ CommandEffect p s t := by
  by_cases h : s.cycle > 0 ∧ s.finished = false
  · exact ⟨_, exec_resume_of_paused h.1 h.2, .resumed h.1 h.2⟩
  · exact ⟨_, exec_resume_otherwise h, .unchanged false⟩

theorem exec_start_effect {p : PortCommand} (hcmd : p.cmd = 1#3) (s : State) :
    ∃ t, exec (.start p.words) s = .next t ∧ CommandEffect p s t := by
  cases h : s.nmax.admits p.words.length with
  | true => exact ⟨_, exec_start_accepted h, .started hcmd h⟩
  | false => exact ⟨_, exec_start_rejected h, .unchanged true⟩

/-- Every command answers a next state, by one of the rules of `CommandEffect` (R13, R180). -/
theorem exec_decodeCommand_effect (p : PortCommand) (s : State) :
    ∃ t, exec (decodeCommand p) s = .next t ∧ CommandEffect p s t := by
  obtain h | ⟨hcmd, h⟩ | ⟨hcmd, h⟩ | h | h | ⟨hcmd, h⟩ | h | h := decodeCommand_cases p <;> rw [h]
  · exact ⟨_, rfl, .unchanged false⟩
  · exact exec_start_effect hcmd s
  · exact ⟨_, rfl, .discarded hcmd⟩
  · exact ⟨_, rfl, .paused⟩
  · exact exec_resume_effect p s
  · exact ⟨_, rfl, .policy hcmd⟩
  · exact exec_tick_effect p s
  · exact ⟨_, rfl, .unchanged false⟩

theorem step_effect (s : State) : ∃ t, step s = .next t ∧ CommandEffect (takeCommand s).1 (takeCommand s).2 t :=
  exec_decodeCommand_effect _ _

/-! ### The invariant -/

/-- The not-started state of R36, with any policy, capacity and further commands. -/
theorem inv_notStarted (b : Bool) (c : Capacity) (p : List PortCommand) :
    Inv { State.reset with fwdCfg := b, nmax := c, port := p } where
  lengths := ⟨rfl, rfl⟩
  capacity := .inl rfl
  tables := ⟨rfl, rfl, rfl, rfl⟩
  totals := ⟨rfl, rfl⟩
  idle _ := ⟨rfl, rfl⟩
  bounds h := absurd rfl h
  runningRun h := absurd h Bool.false_ne_true
  finishedRun h := absurd h Bool.false_ne_true
  shown := ⟨1, Nat.le_refl 1, Nat.le_refl 1, rfl⟩
  freeze h := absurd h (Nat.lt_irrefl 0)
  thaw _ k hk := absurd hk (Nat.not_lt_zero k)

/-- An accepted START establishes the invariant: at CYCLE 1 no instruction has been in ID, since T(k) is at least 2 (R165). -/
theorem inv_startRun {ws : List Word} {s : State} (h : s.nmax.admits ws.length = true) : Inv (startRun ws s) := by
  have hpos := admits_pos h
  have hid : ∀ k, ¬idCycle (startRun ws s).st k ≤ (startRun ws s).cycle := by
    intro k
    simp only [idCycle, startRun_cycle]
    omega
  constructor
  case lengths => simp
  case capacity => exact .inr h
  case tables => exact ⟨rfl, rfl, rfl, rfl⟩
  case totals => simp [Nat.ne_of_gt hpos]
  case idle => intro h0; exact absurd h0 (Nat.ne_of_gt hpos)
  case bounds => intro _; simp only [startRun_cycle, startRun_completion]; omega
  case runningRun => exact fun _ => ⟨Nat.ne_of_gt hpos, rfl⟩
  case finishedRun => exact fun hf => absurd hf Bool.false_ne_true
  case shown => exact ⟨1, by simp, by simp, rfl⟩
  case freeze => exact fun hs => absurd hs (Nat.lt_irrefl 0)
  case thaw => exact fun _ k _ hk => absurd hk (hid k)

/-- RUNNING may become any value that R37 (b) allows. -/
theorem Inv.withRunning {s : State} (h : Inv s) (b r : Bool) (hb : b = true → s.n ≠ 0 ∧ s.finished = false) :
    Inv { s with running := b, reject := r } :=
  { h with runningRun := hb }

/-- A freeze of instruction k that ends at this cycle has held back every later instruction, and every earlier one had its
whole freeze before (R166). -/
theorem thawed_at_freeze_end {st : List Nat} {k m c : Nat} (hend : idCycle st k + stallAt st k = c)
    (hm : idCycle st m ≤ c) : idCycle st m + stallAt st m ≤ c := by
  rcases Nat.lt_trichotomy m k with hlt | rfl | hgt
  · have := idCycle_lt st hlt
    omega
  · omega
  · have := idCycle_lt st hgt
    omega

/-- A frozen TICK belongs to the freeze it counts down: it ends below COMPLETION, and its last TICK thaws (R157, R165). -/
theorem Inv.after_tickFrozen {s : State} (h : Inv s) (hf : s.finished = false) (hs : s.stallRem > 0) :
    Inv (tickFrozen s) := by
  obtain ⟨hn, hlt⟩ := h.frozen_lt hs
  obtain ⟨k, hk, hid, hend, hstage⟩ := h.freeze hs
  obtain ⟨c, hc, hcyc, hshown⟩ := h.shown
  refine { h with
    idle := fun h0 => absurd h0 hn
    bounds := ?bounds
    finishedRun := fun hf' => Bool.false_ne_true (hf.symm.trans hf') |>.elim
    shown := ⟨c, hc, Nat.le_succ_of_le hcyc, hshown⟩
    freeze := ?freeze
    thaw := ?thaw }
  case bounds => intro _; simp only [tickFrozen_cycle, tickFrozen_completion]; omega
  case freeze =>
    refine fun _ => ⟨k, hk, Nat.le_succ_of_le hid, ?_, hstage⟩
    simp only [tickFrozen_cycle, tickFrozen_stallRem, tickFrozen_st]
    omega
  case thaw =>
    intro h0 m _ hm
    simp only [tickFrozen_stallRem, tickFrozen_cycle, tickFrozen_st] at *
    exact thawed_at_freeze_end (k := k) (by omega) hm

/-- The finishing TICK happens at CYCLE = COMPLETION, where the next map is empty (R161). -/
theorem Inv.after_tickFinish {s : State} (h : Inv s) (hr : s.running = true) (hs : s.stallRem = 0)
    (hc : s.cycle + 1 > s.completion) : Inv (tickFinish s) := by
  obtain ⟨hn, -⟩ := h.runningRun hr
  have hcyc : s.completion = s.cycle := by have := h.cycle_le; omega
  have hempty : stageMap s.n s.st (s.cycle + 1) = List.replicate s.n .NONE :=
    stageMap_past_completion h.st_length (by have := h.completion_eq hn; omega)
  refine { h with
    lengths := ⟨h.lengths.1, stageMap_length _ _ _⟩
    idle := fun h0 => absurd h0 hn
    bounds := ?bounds
    runningRun := fun hr' => absurd hr' Bool.false_ne_true
    finishedRun := ?finishedRun
    shown := ⟨s.cycle + 1, Nat.succ_pos _, Nat.succ_le_succ (Nat.le_of_eq hcyc.symm), rfl⟩
    freeze := fun h0 => absurd h0 (Nat.lt_irrefl 0)
    thaw := ?thaw }
  case bounds =>
    obtain ⟨hpos, hle⟩ := h.bounds hn
    exact fun _ => ⟨hpos.trans hle, Nat.le_refl _⟩
  case finishedRun =>
    refine fun _ => ⟨hn, rfl, rfl, fun x hx => ?_⟩
    rw [tickFinish_stage, hempty] at hx
    exact List.eq_of_mem_replicate hx
  case thaw =>
    simp only [tickFinish_cycle, hcyc]
    exact fun _ => h.thaw hs

/-- An ordinary TICK loses no trigger: an instruction that comes into ID starts its freeze at once (R160, R162). -/
theorem Inv.after_tickOrdinary {s : State} (h : Inv s) (hr : s.running = true) (hs : s.stallRem = 0)
    (hc : s.cycle + 1 ≤ s.completion) : Inv (tickOrdinary s) := by
  obtain ⟨hn, hf⟩ := h.runningRun hr
  refine { h with
    lengths := ⟨h.lengths.1, stageMap_length _ _ _⟩
    idle := fun h0 => absurd h0 hn
    bounds := fun _ => ⟨Nat.succ_pos _, hc⟩
    finishedRun := fun hf' => Bool.false_ne_true (hf.symm.trans hf') |>.elim
    shown := ⟨s.cycle + 1, Nat.succ_pos _, Nat.le_succ _, rfl⟩
    freeze := ?freeze
    thaw := ?thaw }
  case freeze =>
    intro h0
    obtain ⟨hz, -⟩ | ⟨k, hk, hid, htrig, -⟩ := trigger_cases s.n s.st (s.cycle + 1)
    · exact absurd hz (Nat.ne_of_gt h0)
    · exact ⟨k, hk, Nat.le_of_eq hid, by simp [htrig, hid], by simp [hid]⟩
  case thaw =>
    simp only [tickOrdinary_stallRem, tickOrdinary_n, tickOrdinary_st, tickOrdinary_cycle]
    intro h0 k hk hid
    rcases Nat.lt_or_eq_of_le hid with hlt | heq
    · have := h.thaw hs k hk (by omega)
      omega
    · have := trigger_eq hk heq
      omega

/-- Every rule of a command keeps the invariant. -/
theorem CommandEffect.keeps_inv {p : PortCommand} {s t : State} (he : CommandEffect p s t) (h : Inv s) : Inv t := by
  cases he with
  | unchanged r => exact h.with _ _ r
  | started _ hadm => exact inv_startRun hadm
  | discarded _ => exact inv_notStarted _ _ _
  | paused => exact h.withRunning false false (fun hb => absurd hb Bool.false_ne_true)
  | resumed hcyc hf =>
    exact h.withRunning true false fun _ => ⟨fun h0 => absurd (h.idle h0).1 (Nat.ne_of_gt hcyc), hf⟩
  | policy _ => exact h.with p.en _ false
  | frozen _ hf hs => exact h.after_tickFrozen hf hs
  | finishing hr _ hs hc => exact h.after_tickFinish hr hs hc
  | ordinary hr _ hs hc => exact h.after_tickOrdinary hr hs hc

/-- Taking a command from the port keeps the invariant, which does not read the port. -/
theorem Inv.after_takeCommand {s : State} (h : Inv s) : Inv (takeCommand s).2 := by
  have h' : Inv { (takeCommand s).2 with port := s.port } := by rwa [takeCommand_frame]
  exact h'.with _ (takeCommand s).2.port _

/-- Settles O43: the command is taken from the port, and whatever its rule makes of the state keeps the invariant. -/
theorem everyStepKeepsTheInvariant : Obligations.EveryStepKeepsTheInvariant := by
  intro s h
  obtain ⟨t, hstep, he⟩ := step_effect s
  exact ⟨t, hstep, he.keeps_inv h.after_takeCommand⟩

/-- Settles O42: the power-on state is a not-started one. -/
theorem invariantHoldsAtReset : Obligations.InvariantHoldsAtReset := inv_notStarted _ _ _

/-! ### CYCLE -/

/-- Settles O28: a frozen TICK ends below COMPLETION, a finishing one caps CYCLE at the value it had. -/
theorem cycleNeverDecreasesAndNeverPassesCompletion : Obligations.CycleNeverDecreasesAndNeverPassesCompletion := by
  intro s h
  have hle := h.cycle_le
  obtain ⟨-, ht⟩ | ⟨-, -, hs, ht⟩ | ⟨-, -, -, hc, ht⟩ | ⟨-, -, -, hc, ht⟩ := exec_tick_cases s
  · exact ⟨_, ht, Nat.le_refl _, Nat.le_succ _, rfl, hle⟩
  · obtain ⟨-, hlt⟩ := h.frozen_lt hs
    exact ⟨_, ht, Nat.le_succ _, Nat.le_refl _, rfl, by simp only [tickFrozen_cycle, tickFrozen_completion]; omega⟩
  · exact ⟨_, ht, hle, by simp only [tickFinish_cycle]; omega, rfl, Nat.le_refl _⟩
  · exact ⟨_, ht, Nat.le_succ _, Nat.le_refl _, rfl, hc⟩

/-! ### The list, its analysis and the policy -/

/-- What START and RESET alone write: the list, the policy of its run, and the tables of the analysis (R24, R33). -/
def listAndAnalysis (s : State) : Nat × List Word × Bool × List Decoded × List HazardRecord × List (List Edge) ×
    List Nat × Nat × Nat :=
  (s.n, s.iw, s.fwdRun, s.dec, s.hz, s.edges, s.st, s.totalStall, s.completion)

theorem CommandEffect.keeps_list {p : PortCommand} {s t : State} (he : CommandEffect p s t) (hstart : p.cmd ≠ 1#3)
    (hreset : p.cmd ≠ 2#3) : listAndAnalysis t = listAndAnalysis s := by
  cases he with
  | started hcmd => exact absurd hcmd hstart
  | discarded hcmd => exact absurd hcmd hreset
  | _ => rfl

theorem CommandEffect.keeps_policy {p : PortCommand} {s t : State} (he : CommandEffect p s t) (hsetfwd : p.cmd ≠ 5#3) :
    t.fwdCfg = s.fwdCfg := by
  cases he with
  | policy hcmd => exact absurd hcmd hsetfwd
  | _ => rfl

theorem CommandEffect.keeps_port {p : PortCommand} {s t : State} (he : CommandEffect p s t) : t.port = s.port := by
  cases he <;> rfl

/-- What holds of NOP and of every command at the port holds of the command taken and of those that are left (R180). -/
theorem takeCommand_forall {P : PortCommand → Prop} {s : State} (hnop : P (plainCommand 0#3)) (h : ∀ p ∈ s.port, P p) :
    P (takeCommand s).1 ∧ ∀ p ∈ (takeCommand s).2.port, P p := by
  unfold takeCommand
  split
  next hport => exact ⟨hnop, by simp [hport]⟩
  next p rest hport =>
    rw [hport, List.forall_mem_cons] at h
    exact h

theorem core_run_succ {k : Nat} {s t : State} (h : step s = .next t) : core.run (k + 1) s = core.run k t := by
  have hcore : core.step s = .next t := h
  simp only [Host.Core.run, hcore]

/-- A host that presents no START and no RESET leaves the list and its analysis as they are. -/
theorem core_run_keeps_list (k : Nat) {s : State} (h : ∀ p ∈ s.port, p.cmd ≠ 1#3 ∧ p.cmd ≠ 2#3) :
    ∃ t, core.run k s = .next t ∧ listAndAnalysis t = listAndAnalysis s := by
  induction k generalizing s with
  | zero => exact ⟨s, rfl, rfl⟩
  | succ k ih =>
    obtain ⟨u, hstep, he⟩ := step_effect s
    obtain ⟨⟨hstart, hreset⟩, hrest⟩ := takeCommand_forall (P := fun p => p.cmd ≠ 1#3 ∧ p.cmd ≠ 2#3) (by decide) h
    obtain ⟨t, hrun, ht⟩ := ih (he.keeps_port ▸ hrest)
    have htake := congrArg listAndAnalysis (takeCommand_frame s)
    exact ⟨t, (core_run_succ hstep).trans hrun, ht.trans ((he.keeps_list hstart hreset).trans htake)⟩

/-- Settles O46: by the run above, and because SETFWD alone writes FWD_CFG. -/
theorem onlyStartAndResetChangeTheListAndItsAnalysis : Obligations.OnlyStartAndResetChangeTheListAndItsAnalysis := by
  constructor
  · intro k s h
    obtain ⟨t, hrun, ht⟩ := core_run_keeps_list k h
    exact ⟨t, hrun, by simpa only [listAndAnalysis, Prod.mk.injEq] using ht⟩
  · intro s h
    obtain ⟨t, hstep, he⟩ := step_effect s
    have htake := congrArg State.fwdCfg (takeCommand_frame s)
    exact ⟨t, hstep, (he.keeps_policy h).trans htake⟩

/-! ### START again, and power-on -/

/-- An accepted START reads NMAX and FWD_CFG alone, and it keeps the port (R182). -/
theorem startRun_eq_of_policy {s u : State} (ws : List Word) (hnmax : u.nmax = s.nmax) (hfwd : u.fwdCfg = s.fwdCfg) :
    startRun ws u = { startRun ws s with port := u.port } := by
  simp only [startRun, hnmax, hfwd]

/-- Settles O20: both STARTs are accepted, and they give the same run. -/
theorem repeatedStartGivesTheSameRun : Obligations.RepeatedStartGivesTheSameRun := by
  intro ws s u hadm hnmax hfwd
  refine ⟨startRun ws s, exec_start_accepted hadm, ?_⟩
  rw [exec_start_accepted (hnmax ▸ hadm), startRun_eq_of_policy ws hnmax hfwd]

/-- Settles O16: the power-on state is written out field by field. -/
theorem powerOnValuesOfTheRegisters : Obligations.PowerOnValuesOfTheRegisters :=
  ⟨rfl, rfl, rfl, rfl, rfl, rfl, rfl, rfl, rfl, rfl, rfl, rfl, rfl, rfl, rfl⟩

end Sys2Proof.Machine
end

section
/-! SUPPORT. The memory statements (spec/20_memory.md): FWD_CFG reaches a run only through START (R59, R187), and how an
opcode-table row is placed for the next step (R51, R77). -/

namespace Sys2Proof.Machine

/-! ### FWD_CFG between two STARTs -/

/-- TICK does not read FWD_CFG: each of its four paths is taken, and does the same, under any policy (R59). -/
theorem exec_tick_withPolicy (s : State) (b : Bool) :
    ∃ t, exec .tick s = .next t ∧ exec .tick { s with fwdCfg := b } = .next { t with fwdCfg := b } := by
  obtain ⟨hstop, h⟩ | ⟨hr, hf, hs, h⟩ | ⟨hr, hf, hs, hc, h⟩ | ⟨hr, hf, hs, hc, h⟩ := exec_tick_cases s
  · exact ⟨_, h, exec_tick_stopped hstop⟩
  · exact ⟨_, h, exec_tick_frozen hr hf hs⟩
  · exact ⟨_, h, exec_tick_finish hr hf hs hc⟩
  · exact ⟨_, h, exec_tick_ordinary hr hf hs hc⟩

/-- RESUME does not read FWD_CFG: its test is of CYCLE and FINISHED (R186). -/
theorem exec_resume_withPolicy (s : State) (b : Bool) :
    ∃ t, exec .resume s = .next t ∧ exec .resume { s with fwdCfg := b } = .next { t with fwdCfg := b } := by
  by_cases h : s.cycle > 0 ∧ s.finished = false
  · exact ⟨_, exec_resume_of_paused h.1 h.2, exec_resume_of_paused h.1 h.2⟩
  · exact ⟨_, exec_resume_otherwise h, exec_resume_otherwise h⟩

/-- An instruction other than START answers the same next state under another policy, but for FWD_CFG itself: SETFWD
overwrites the policy, every other instruction carries it along. -/
theorem exec_withPolicy {i : Instr} (hstart : ∀ ws, i ≠ .start ws) (s : State) (b : Bool) :
    ∃ t b', exec i s = .next t ∧ exec i { s with fwdCfg := b } = .next { t with fwdCfg := b' } := by
  cases i
  case start ws => exact absurd rfl (hstart ws)
  case setfwd en => exact ⟨{ s with fwdCfg := en, reject := false }, en, rfl, rfl⟩
  case tick =>
    obtain ⟨t, ht, ht'⟩ := exec_tick_withPolicy s b
    exact ⟨t, b, ht, ht'⟩
  case resume =>
    obtain ⟨t, ht, ht'⟩ := exec_resume_withPolicy s b
    exact ⟨t, b, ht, ht'⟩
  case nop => exact ⟨noChange s, b, rfl, rfl⟩
  case reserved7 => exact ⟨noChange s, b, rfl, rfl⟩
  case pause => exact ⟨{ s with running := false, reject := false }, b, rfl, rfl⟩
  case reset => exact ⟨_, b, rfl, rfl⟩
  all_goals exact ⟨contribute _ s, b, rfl, rfl⟩

/-- Settles O45, by induction on the sequence: after each instruction the two runs are again apart in FWD_CFG alone. -/
theorem policyChangeIsInvisibleUntilTheNextStart : Obligations.PolicyChangeIsInvisibleUntilTheNextStart := by
  intro is
  induction is with
  | nil => exact fun s b _ => ⟨s, { s with fwdCfg := b }, rfl, rfl, rfl⟩
  | cons i is ih =>
    intro s b hstart
    have hi : ∀ ws, i ≠ .start ws := fun ws h => hstart ws (h ▸ List.mem_cons_self)
    obtain ⟨u, b', hu, hu'⟩ := exec_withPolicy hi s b
    rw [runInstrs_cons hu, runInstrs_cons hu']
    exact ih u b' fun ws h => hstart ws (List.mem_cons_of_mem i h)

/-! ### A table row placed at the port -/

/-- The command presented next is the one the next step runs, and the port is then as it was (R180). -/
theorem step_presentNext (p : PortCommand) (s : State) : step (presentNext p s) = exec (decodeCommand p) s := rfl

/-- A row of 8 bits is presented as the command of that code (R77). -/
theorem withFetchWord_command (s : State) (c : Nat) :
    s.withFetchWord 8 c = presentNext (plainCommand (BitVec.ofNat 3 c)) s := rfl

/-- A row of 32 bits is presented as the START of that one word (R51). -/
theorem withFetchWord_word (s : State) (w : Nat) :
    s.withFetchWord 32 w = presentNext { cmd := 1#3, en := false, words := [BitVec.ofNat 32 w] } s := rfl

theorem step_withFetchWord_word (s : State) (w : Nat) :
    step (s.withFetchWord 32 w) = exec (.start [BitVec.ofNat 32 w]) s := by
  rw [withFetchWord_word, step_presentNext]
  rfl

/-- Every capacity admits a list of one word: NMAX is at least 1 (R7). -/
theorem admits_one (c : Capacity) : c.admits 1 = true := by
  cases c <;> simp [Capacity.admits]

/-- Settles O48: the placed command is the one taken, and the START of one word is accepted and decodes to that word's record. -/
theorem tableRowPlacedForTheNextStepIsRun : Obligations.TableRowPlacedForTheNextStepIsRun := by
  constructor
  · intro s c
    rw [withFetchWord_command, step_presentNext]
  · intro s w
    have hrun := step_withFetchWord_word s w
    have hacc : exec (.start [BitVec.ofNat 32 w]) s = .next (startRun [BitVec.ofNat 32 w] s) :=
      exec_start_accepted (admits_one s.nmax)
    exact ⟨hrun, rfl, startRun [BitVec.ofNat 32 w] s, hrun.trans hacc, rfl, exec_decodeWord _ _⟩

end Sys2Proof.Machine
end

section
/-! SUPPORT. The encoding statements (spec/30_encoding.md): decoding and encoding undo each other (R71, R73, R77), what a word's
opcode selects (R72), the bits that no rule reads (R75), and the 13-bit packing of a hazard record (R80). -/

namespace Sys2Proof

/-! ### Decoding and encoding undo each other -/

theorem decodeWord_packR (rs rt rd : RegNum) (u : BitVec 5) (fn : BitVec 6) :
    decodeWord (packR rs rt rd u fn) = .rOp00 rs rt rd u fn := by
  simp [decodeWord]

/-- Settles O1: every field of a packed word is read back as it was packed, and a command's code selects its own row. For a
word, its four fields are put into the decoder's match, which then computes. -/
theorem decodeOfEncodeIsIdentity : Obligations.DecodeOfEncodeIsIdentity := by
  intro i
  cases i
  case rOp00 rs rt rd u fn => exact decodeWord_packR rs rt rd u fn
  case nop | start | reset | pause | resume | setfwd | tick | reserved7 => rfl
  all_goals
    delta decode encode decodeWord
    dsimp only
    rw [opcodeOf_packI, rsOf_packI, rtOf_packI, lowOf_packI]
    rfl

/-- The row that a word's opcode selects packs the word's own fields (R71, R73, R76). -/
theorem encode_decodeWord (w : Word) : encode (decodeWord w) = .word w := by
  have hlt : (opcodeOf w).toNat < 64 := (opcodeOf w).isLt
  have hop : opcodeOf w = BitVec.ofNat 6 (opcodeOf w).toNat := by simp
  have hI := packI_of_fields w
  have hR := packR_of_fields w
  delta decodeWord
  generalize (opcodeOf w).toNat = p at hlt hop
  rw [hop] at hI hR
  interval_cases p
  · exact congrArg Encoding.word (hR rfl)
  all_goals exact congrArg Encoding.word hI

theorem PortCommand.wf_iff {p : PortCommand} :
    p.wf = true ↔ (p.cmd ≠ 5#3 → p.en = false) ∧ (p.cmd ≠ 1#3 → p.words = []) := by
  simp [PortCommand.wf, or_iff_not_imp_right]

/-- A command without an argument, code 7 included, has the one presentation with both lanes idle (R77, R78). -/
theorem encode_decodeCommand_plain : ∀ cmd : BitVec 3, cmd ≠ 1#3 → cmd ≠ 5#3 →
    encode (decodeCommand (plainCommand cmd)) = .command (plainCommand cmd) := by decide

/-- A presentation whose unread lanes are idle is that of the command it decodes to (R77). -/
theorem encode_decodeCommand {p : PortCommand} (h : p.wf = true) : encode (decodeCommand p) = .command p := by
  obtain ⟨cmd, en, words⟩ := p
  obtain ⟨hen, hwords⟩ : (cmd ≠ 5#3 → en = false) ∧ (cmd ≠ 1#3 → words = []) := PortCommand.wf_iff.mp h
  by_cases hstart : cmd = 1#3
  · subst hstart
    obtain rfl : en = false := hen (by decide)
    rfl
  by_cases hsetfwd : cmd = 5#3
  · subst hsetfwd
    obtain rfl : words = [] := hwords (by decide)
    rfl
  · obtain rfl : en = false := hen hsetfwd
    obtain rfl : words = [] := hwords hstart
    exact encode_decodeCommand_plain cmd hstart hsetfwd

/-- Settles O2, for words and for commands by the lemmas above. -/
theorem encodeOfDecodeIsIdentity : Obligations.EncodeOfDecodeIsIdentity :=
  ⟨encode_decodeWord, fun _ => encode_decodeCommand⟩

/-- Settles O3: the vectors' words are closed terms, and neither command reads another lane than its own. -/
theorem wordsWrittenOutDecodeAsTheSpecSays : Obligations.WordsWrittenOutDecodeAsTheSpecSays :=
  ⟨by decide, by decide, by decide, by decide, by decide, by decide, by decide, fun _ _ => rfl, fun _ _ => rfl⟩

namespace Machine

/-! ### What the opcode selects -/

/-- The kind of a word in terms of its opcode's number (R72). -/
theorem kindOf_eq (op : Opcode) :
    kindOf op = if op.toNat = 0 then .R else if op.toNat = 2 ∨ op.toNat = 3 then .J else .I := by
  simp [kindOf, Config.opcR, Config.opcJ, Config.opcJL, BitVec.toNat_eq]

/-- The two ranges of opcodes whose destination is the rt field (R104, R105; both closed, D22). -/
theorem inRtRange_iff (op : Opcode) : (inImmRange op || inLoadRange op) = true ↔
    (8 ≤ op.toNat ∧ op.toNat ≤ 15) ∨ (32 ≤ op.toNat ∧ op.toNat ≤ 37) := by
  rw [Bool.or_eq_true, inImmRange, inLoadRange, decide_eq_true_eq, decide_eq_true_eq]
  rfl

/-- The effective destination of a word in terms of its opcode's number (R72, R74). -/
theorem effectiveDest_eq (w : Word) {p : Nat} (hp : (opcodeOf w).toNat = p) :
    effectiveDest w =
      if p = 0 then rdFieldOf w
      else if p = 3 then 31#5
      else if (8 ≤ p ∧ p ≤ 15) ∨ (32 ≤ p ∧ p ≤ 37) then rtOf w
      else 0#5 := by
  have hJL : opcodeOf w = Config.opcJL ↔ p = 3 := by rw [← hp]; exact BitVec.toNat_inj.symm
  have hrange := inRtRange_iff (opcodeOf w)
  simp only [effectiveDest, kindOf_eq, hJL, hrange, hp]
  by_cases h0 : p = 0
  · simp only [h0, if_true]
  by_cases h2 : p = 2
  · subst h2; rfl
  by_cases h3 : p = 3
  · subst h3; rfl
  · simp only [h0, h2, h3, or_self, if_false]

theorem functField_of_opcode_zero {w : Word} (h : (opcodeOf w).toNat = 0) : functField w = functOf w := by
  simp [functField, kindOf_eq, h]

/-- Settles O4: the kind and the destination are those that the opcode's number selects, and the fields are the word's bits. -/
theorem decodedRecordByOpcode : Obligations.DecodedRecordByOpcode := by
  intro w p d
  have hp : (opcodeOf w).toNat = p := opcodeOf_toNat w
  have hkind : d.kind = if p = 0 then .R else if p = 2 ∨ p = 3 then .J else .I := hp ▸ kindOf_eq (opcodeOf w)
  have hR : d.kind = .R ↔ p = 0 := by rw [hkind]; split_ifs <;> simp <;> omega
  have hJ : d.kind = .J ↔ p = 2 ∨ p = 3 := by rw [hkind]; split_ifs <;> simp <;> omega
  have hI : d.kind = .I ↔ p = 1 ∨ 4 ≤ p := by rw [hkind]; split_ifs <;> simp <;> omega
  refine ⟨hp, rsOf_toNat w, rtOf_toNat w, hR, hJ, hI, ?_, ?_⟩
  · have hrd : d.rd = _ := effectiveDest_eq w hp
    rw [hrd, ← rdFieldOf_toNat, ← rtOf_toNat]
    split_ifs <;> rfl
  · intro h0
    have : d.funct = functOf w := functField_of_opcode_zero (hp.trans h0)
    rw [this, functOf_toNat]

/-! ### The bits that no rule reads -/

/-- A record of DEC with its funct set aside, which no rule reads (R111). -/
def Decoded.forgetFunct (d : Decoded) : Decoded := { d with funct := 0#6 }

section
variable (dec : List Decoded) (fwd : Bool) (n i : Nat)

@[simp] theorem rdAt_forgetFunct (j : Nat) : rdAt (dec.map Decoded.forgetFunct) j = rdAt dec j := by
  unfold rdAt
  rw [List.getElem?_map]
  cases dec[j]? <;> rfl

theorem consumerAt_forgetFunct :
    consumerAt (dec.map Decoded.forgetFunct) i = (consumerAt dec i).map Decoded.forgetFunct := by
  unfold consumerAt
  rw [List.getElem?_map]
  cases dec[i]? with
  | none => rfl
  | some c => exact (apply_ite (Option.map Decoded.forgetFunct) (i = 0 ∨ c.kind = .J) none (some c)).symm

@[simp] theorem matchList_forgetFunct : matchList (dec.map Decoded.forgetFunct) i = matchList dec i := by
  have hat : ∀ c, matchesAt (dec.map Decoded.forgetFunct) c.forgetFunct i = matchesAt dec c i := fun c => by
    funext j
    simp only [matchesAt, rdAt_forgetFunct, Decoded.forgetFunct]
  unfold matchList
  rw [consumerAt_forgetFunct]
  cases consumerAt dec i with
  | none => rfl
  | some c => simp only [Option.map_some, hat]

theorem unmatchedRecord_forgetFunct (c : Decoded) :
    unmatchedRecord (dec.map Decoded.forgetFunct) c.forgetFunct i = unmatchedRecord dec c i := by
  simp only [unmatchedRecord, wawProducer, rdAt_forgetFunct, wawRecord, Decoded.forgetFunct]

@[simp] theorem hazardRecord_forgetFunct :
    hazardRecord (dec.map Decoded.forgetFunct) fwd i = hazardRecord dec fwd i := by
  unfold hazardRecord
  rw [consumerAt_forgetFunct]
  cases consumerAt dec i with
  | none => rfl
  | some c => simp only [Option.map_some, matchList_forgetFunct, rawRecord, rdAt_forgetFunct, unmatchedRecord_forgetFunct]

@[simp] theorem edgesAt_forgetFunct : edgesAt (dec.map Decoded.forgetFunct) fwd i = edgesAt dec fwd i := by
  have hedge : edgeOf (dec.map Decoded.forgetFunct) i = edgeOf dec i := funext fun m => by
    simp only [edgeOf, rdAt_forgetFunct]
  simp only [edgesAt, matchList_forgetFunct, hedge]

theorem analyzeHazards_forgetFunct :
    analyzeHazards n (dec.map Decoded.forgetFunct) fwd = analyzeHazards n dec fwd := by
  simp [analyzeHazards]

theorem analyzeEdges_forgetFunct :
    analyzeEdges n (dec.map Decoded.forgetFunct) fwd = analyzeEdges n dec fwd := by
  simp [analyzeEdges]

end

/-- Two accepted lists whose records agree but for funct have the same run, but for IW and DEC (R111, R182). -/
theorem startRun_eq_of_forgetFunct {ws ws' : List Word} (s : State) (hlen : ws.length = ws'.length)
    (hdec : (ws'.map decodeRecord).map Decoded.forgetFunct = (ws.map decodeRecord).map Decoded.forgetFunct) :
    { startRun ws' s with iw := ws, dec := ws.map decodeRecord } = startRun ws s := by
  have hhz : ∀ n fwd, analyzeHazards n (ws'.map decodeRecord) fwd = analyzeHazards n (ws.map decodeRecord) fwd :=
    fun n fwd => by rw [← analyzeHazards_forgetFunct, hdec, analyzeHazards_forgetFunct]
  have hedges : ∀ n fwd, analyzeEdges n (ws'.map decodeRecord) fwd = analyzeEdges n (ws.map decodeRecord) fwd :=
    fun n fwd => by rw [← analyzeEdges_forgetFunct, hdec, analyzeEdges_forgetFunct]
  simp only [startRun, analyzeStalls, hlen, hhz, hedges]

/-- Two words agree in the bits that some rule reads: opcode, rs and rt, and the rd field of opcode 0 (R75). -/
def AgreeWhereRead (w w' : Word) : Prop :=
  w.extractLsb' 16 16 = w'.extractLsb' 16 16 ∧ (w.extractLsb' 26 6 = 0#6 → w.extractLsb' 11 5 = w'.extractLsb' 11 5)

theorem AgreeWhereRead.fields {w w' : Word} (h : AgreeWhereRead w w') :
    opcodeOf w = opcodeOf w' ∧ rsOf w = rsOf w' ∧ rtOf w = rtOf w' := by
  have hupper : w.toNat / 2 ^ 16 % 2 ^ 16 = w'.toNat / 2 ^ 16 % 2 ^ 16 := by
    simpa only [BitVec.extractLsb'_toNat, Nat.shiftRight_eq_div_pow] using congrArg BitVec.toNat h.1
  have hw := w.isLt
  have hw' := w'.isLt
  simp only [← BitVec.toNat_inj, opcodeOf_toNat, rsOf_toNat, rtOf_toNat]
  omega

theorem AgreeWhereRead.forgetFunct_eq {w w' : Word} (h : AgreeWhereRead w w') :
    (decodeRecord w).forgetFunct = (decodeRecord w').forgetFunct := by
  obtain ⟨hop, hrs, hrt⟩ := h.fields
  have hdest : effectiveDest w = effectiveDest w' := by
    rw [effectiveDest_eq w rfl, effectiveDest_eq w' rfl, ← hop, ← hrt]
    by_cases h0 : (opcodeOf w).toNat = 0
    · simp only [h0, if_true]
      exact h.2 (BitVec.eq_of_toNat_eq h0)
    · simp only [h0, if_false]
  simp only [decodeRecord, Decoded.forgetFunct, hop, hrs, hrt, hdest]

theorem records_forgetFunct_eq {ws ws' : List Word} (h : List.Forall₂ AgreeWhereRead ws ws') :
    (ws'.map decodeRecord).map Decoded.forgetFunct = (ws.map decodeRecord).map Decoded.forgetFunct := by
  induction h with
  | nil => rfl
  | cons hw _ ih => simp only [List.map_cons, hw.forgetFunct_eq, ih]

/-- Settles O41: the records agree but for funct, which no rule of the analysis reads. -/
theorem ignoredBitsOfWordsChangeNothingTheAnalysisShows :
    Obligations.IgnoredBitsOfWordsChangeNothingTheAnalysisShows := by
  intro ws ws' s hadm h
  have hlen : ws.length = ws'.length := h.length_eq
  have hdec := records_forgetFunct_eq h
  exact ⟨startRun ws s, startRun ws' s, exec_start_accepted hadm, exec_start_accepted (hlen ▸ hadm),
    startRun_eq_of_forgetFunct s hlen hdec, hdec⟩

/-! ### The packing of hazard records -/

theorem HazardKind.code_injective : Function.Injective HazardKind.code := by
  intro a b
  cases a <;> cases b <;> decide

theorem Operand.code_injective : Function.Injective Operand.code := by
  intro a b
  cases a <;> cases b <;> decide

/-- The packing is the sum of its fields, each at its own place (R80). -/
theorem HazardRecord.pack_toNat (h : HazardRecord) :
    h.pack.toNat = h.kind.code.toNat * 2 ^ 11 + h.forwardable.toNat * 2 ^ 10 + h.stallCycles % 4 * 2 ^ 8 +
      h.gdist % 4 * 2 ^ 6 + h.gopnd.code.toNat * 2 ^ 5 + h.greg.toNat := by
  unfold pack
  simp only [toNat_append_eq, BitVec.toNat_ofBool, BitVec.toNat_ofNat]
  omega

/-- A record whose counts fit their two bits is determined by its packing (R80). -/
theorem HazardRecord.eq_of_pack_eq {h h' : HazardRecord} (hs : h.stallCycles < 4) (hd : h.gdist < 4)
    (hs' : h'.stallCycles < 4) (hd' : h'.gdist < 4) (heq : h.pack = h'.pack) : h = h' := by
  have hnum := congrArg BitVec.toNat heq
  rw [pack_toNat, pack_toNat, Nat.mod_eq_of_lt hs, Nat.mod_eq_of_lt hd, Nat.mod_eq_of_lt hs', Nat.mod_eq_of_lt hd'] at hnum
  have := h.forwardable.toNat_le
  have := h'.forwardable.toNat_le
  have := h.gopnd.code.isLt
  have := h'.gopnd.code.isLt
  have := h.greg.isLt
  have := h'.greg.isLt
  have hkind : h.kind = h'.kind := HazardKind.code_injective (BitVec.eq_of_toNat_eq (by omega))
  have hfwd : h.forwardable = h'.forwardable := by
    rw [Bool.eq_iff_iff, ← Bool.toNat_eq_one, ← Bool.toNat_eq_one]
    omega
  have hstall : h.stallCycles = h'.stallCycles := by omega
  have hdist : h.gdist = h'.gdist := by omega
  have hopnd : h.gopnd = h'.gopnd := Operand.code_injective (BitVec.eq_of_toNat_eq (by omega))
  have hreg : h.greg = h'.greg := BitVec.eq_of_toNat_eq (by omega)
  cases h
  cases h'
  exact (HazardRecord.mk.injEq ..).mpr ⟨hkind, hfwd, hstall, hdist, hopnd, hreg⟩

/-- A record of a run is the classifier's for some index (R58). -/
theorem Inv.exists_hazardRecord {s : State} (hinv : Inv s) {h : HazardRecord} (hmem : h ∈ s.hz) :
    ∃ i, h = hazardRecord s.dec s.fwdRun i := by
  obtain ⟨-, hhz, -, -⟩ := hinv.tables
  rw [hhz, analyzeHazards, List.mem_map] at hmem
  obtain ⟨i, -, rfl⟩ := hmem
  exact ⟨i, rfl⟩

theorem Inv.record_bounds {s : State} (hinv : Inv s) {h : HazardRecord} (hmem : h ∈ s.hz) :
    h.stallCycles < 4 ∧ h.gdist < 4 := by
  obtain ⟨i, rfl⟩ := hinv.exists_hazardRecord hmem
  have := hazardRecord_bounds s.dec s.fwdRun i
  omega

/-- Settles O51: a run's stall counts and distances are at most 2. -/
theorem packedHazardRecordsOfARunLoseNothing : Obligations.PackedHazardRecordsOfARunLoseNothing := by
  intro s hinv h hmem h' hmem' heq
  obtain ⟨hs, hd⟩ := hinv.record_bounds hmem
  obtain ⟨hs', hd'⟩ := hinv.record_bounds hmem'
  exact HazardRecord.eq_of_pack_eq hs hd hs' hd' heq

end Machine
end Sys2Proof
end

section
/-! SUPPORT. The decoding statements (spec/40_decode.md): the record that a word of each class contributes to DEC (R101 to R106),
and the DEC of an accepted START as what its words contribute one after the other (R100, R182). -/

namespace Sys2Proof.Machine

/-! ### What the words of a list contribute together -/

/-- Running the meanings of the words of a list appends their records to DEC, in order, and does nothing else (R100). -/
theorem runInstrs_decodeWords (ws : List Word) (s : State) :
    runInstrs (ws.map decodeWord) s = .next { s with dec := s.dec ++ ws.map decodeRecord } := by
  induction ws generalizing s with
  | nil => simp [runInstrs]
  | cons w ws ih =>
    rw [List.map_cons, runInstrs_cons (exec_decodeWord w s), ih]
    simp [contribute]

/-- Settles O10: both clauses give the records of the words, the first because DEC starts empty. -/
theorem startDecodesByTheMeaningsOfItsWords : Obligations.StartDecodesByTheMeaningsOfItsWords := by
  intro ws
  refine ⟨ws.map decodeRecord, fun s => ?_, fun s hadm => ?_⟩
  · exact runInstrs_decodeWords ws { s with dec := [] }
  · exact ⟨startRun ws s, exec_start_accepted hadm, startRun_dec ws s⟩

/-! ### What a word of each class contributes -/

/-- Settles O5: the word's arm contributes the record of class R, which does not hold the bits [10:6]. -/
theorem classRWordContributesItsRecord : Obligations.ClassRWordContributesItsRecord := by
  intro rs rt rd unnamed funct s
  have harm : exec (.rOp00 rs rt rd unnamed funct) s = .next (contribute (recordR rs rt rd unnamed funct) s) := rfl
  exact harm

/-- Settles O6: the two arms contribute the records of classes J and JL. -/
theorem jumpWordsContributeTheirRecords : Obligations.JumpWordsContributeTheirRecords := by
  intro rs rt low s
  have hJ : exec (.jOp02 rs rt low) s = .next (contribute (recordJ rs rt low) s) := rfl
  have hJL : exec (.jlOp03 rs rt low) s = .next (contribute (recordJL rs rt low) s) := rfl
  exact ⟨hJ, hJL⟩

/-- Settles O7: the arm of each of the eight opcodes contributes the record of class IA. -/
theorem classIAWordsContributeTheirRecords : Obligations.ClassIAWordsContributeTheirRecords := by
  intro p hp rs rt low s
  have harm : exec (p.2 rs rt low) s = .next (contribute (recordIA p.1 rs rt low) s) := by
    fin_cases hp <;> rfl
  exact harm

/-- Settles O8: the arm of each of the six opcodes contributes the record of class IL. -/
theorem classILWordsContributeTheirRecords : Obligations.ClassILWordsContributeTheirRecords := by
  intro p hp rs rt low s
  have harm : exec (p.2 rs rt low) s = .next (contribute (recordIL p.1 rs rt low) s) := by
    fin_cases hp <;> rfl
  exact harm

/-- Settles O9: the arm of each of the 47 opcodes contributes the record of class IN. -/
theorem classINWordsContributeTheirRecords : Obligations.ClassINWordsContributeTheirRecords := by
  intro p hp rs rt low s
  have harm : exec (p.2 rs rt low) s = .next (contribute (recordIN p.1 rs rt low) s) := by
    fin_cases hp <;> rfl
  exact harm

end Sys2Proof.Machine
end

section
/-! SUPPORT. The classifier statements (spec/41_hazard_classifier.md): the totals of a run (R131), the indices that are never
consumers (R121, R130), the governing match and its record (R124 to R127), WAW and NONE records (R128, R129), the window a
record depends on (R122), and the edges and selects the match bits give (R140 to R145). -/

namespace Sys2Proof.Machine

/-! ### The tables of an accepted START, one index at a time -/

section
variable {ws : List Word} {i : Nat} (s : State)

theorem startRun_hz_getElem? (h : i < ws.length) :
    (startRun ws s).hz[i]? = some (hazardRecord (startRun ws s).dec (startRun ws s).fwdRun i) :=
  analyzeHazards_getElem? _ _ h

theorem startRun_edges_getElem? (h : i < ws.length) :
    (startRun ws s).edges[i]? = some (edgesAt (startRun ws s).dec (startRun ws s).fwdRun i) :=
  analyzeEdges_getElem? _ _ h

theorem startRun_st_getElem? (h : i < ws.length) :
    (startRun ws s).st[i]? = some (hazardRecord (startRun ws s).dec (startRun ws s).fwdRun i).stallCycles :=
  analyzeStalls_getElem? _ _ h

end

/-- An index with a record in DEC is an index of the list. -/
theorem lt_length_of_record {ws : List Word} {i : Nat} {c : Decoded} (h : (ws.map decodeRecord)[i]? = some c) :
    i < ws.length := by
  obtain ⟨hi, -⟩ := List.getElem?_eq_some_iff.mp h
  simpa using hi

/-- Settles O32: START writes both totals from the ST it computes. -/
theorem totalsOfARun : Obligations.TotalsOfARun := by
  intro ws s hadm
  refine ⟨startRun ws s, exec_start_accepted hadm, analyzeStalls_length _ _ _, rfl, rfl, rfl, ?_⟩
  rw [startRun_completion, startRun_totalStall, startRun_n]
  omega

/-! ### Indices that are never consumers -/

theorem consumerAt_eq_none {dec : List Decoded} {i : Nat} {c : Decoded} (hc : dec[i]? = some c) (h : i = 0 ∨ c.kind = .J) :
    consumerAt dec i = none := by
  simp [consumerAt, hc, h]

/-- Settles O35: an index that is not examined has the NONE record and no edges. -/
theorem indexZeroAndJumpWordsAreNeverConsumers : Obligations.IndexZeroAndJumpWordsAreNeverConsumers := by
  intro ws s hadm
  refine ⟨startRun ws s, exec_start_accepted hadm, fun i c hc hnever => ?_⟩
  have hi := lt_length_of_record hc
  have hnone := consumerAt_eq_none hc hnever
  rw [startRun_hz_getElem? s hi, startRun_edges_getElem? s hi, startRun_st_getElem? s hi,
    hazardRecord_of_not_consumer hnone, edgesAt_of_not_consumer hnone]
  exact ⟨rfl, rfl, rfl⟩

/-! ### The governing match and its record -/

/-- The match of consumer i at distance d for operand o governs (R125): no match is nearer, and RS goes before RT (D13). -/
def Governs (dec : List Decoded) (i d : Nat) (o : Operand) : Prop :=
  MatchBit dec i d o ∧ (d = 2 → ¬(MatchBit dec i 1 .RS ∨ MatchBit dec i 1 .RT)) ∧ (o = .RT → ¬MatchBit dec i d .RS)

theorem MatchBit.rs_or_rt {dec : List Decoded} {i d : Nat} {o : Operand} (h : MatchBit dec i d o) :
    MatchBit dec i d .RS ∨ MatchBit dec i d .RT := by
  cases o with
  | RS => exact .inl h
  | RT => exact .inr h

theorem HasMatch.exists_governs {dec : List Decoded} {i : Nat} (h : HasMatch dec i) : ∃ d o, Governs dec i d o := by
  have hfirst : ∀ d o, MatchBit dec i d o → ∃ o', MatchBit dec i d o' ∧ (o' = .RT → ¬MatchBit dec i d .RS) := by
    intro d o hm
    by_cases hrs : MatchBit dec i d .RS
    · exact ⟨.RS, hrs, nofun⟩
    · exact ⟨o, hm, fun _ => hrs⟩
  by_cases hnear : ∃ o, MatchBit dec i 1 o
  · obtain ⟨o, hm⟩ := hnear
    obtain ⟨o', hm', hrs⟩ := hfirst 1 o hm
    exact ⟨1, o', hm', by simp, hrs⟩
  · obtain ⟨d, o, hm⟩ := h
    obtain rfl | rfl := hm.1
    · exact absurd ⟨o, hm⟩ hnear
    · obtain ⟨o', hm', hrs⟩ := hfirst 2 o hm
      exact ⟨2, o', hm', fun _ h1 => hnear (h1.elim (⟨_, ·⟩) (⟨_, ·⟩)), hrs⟩

/-- The register an operand matched is the one its producer writes (R124). -/
theorem MatchBit.rdAt_eq {dec : List Decoded} {i d : Nat} {o : Operand} {c : Decoded} (h : MatchBit dec i d o)
    (hc : dec[i]? = some c) : rdAt dec (i - d) = sourceField c o := by
  obtain ⟨-, -, c', p, hc', hp, -, hs⟩ := h
  obtain rfl : c' = c := by simpa [hc] using hc'.symm
  rw [rdAt_of_some hp, hs]

/-- The record of a consumer with a match is RAW and describes the governing one (R125 to R127). -/
theorem Governs.hazardRecord_eq {dec : List Decoded} {i d : Nat} {o : Operand} {c : Decoded} (hg : Governs dec i d o)
    (hc : consumerAt dec i = some c) (fwd : Bool) :
    hazardRecord dec fwd i = ⟨.RAW, true, if fwd then 0 else 3 - d, d, o, sourceField c o⟩ := by
  obtain ⟨hm, hnear, hrs⟩ := hg
  have hi := (consumerAt_eq_some.mp hc).1
  have hbit := (bit_iff hi hm.1).mpr hm
  rw [← hm.rdAt_eq hi, hazardRecord_eq_bits hc]
  obtain rfl | rfl := hm.1
  · cases o with
    | RS => simp [hbit]
    | RT => simp [hbit, (not_bit_iff hi (.inl rfl)).mpr (hrs rfl)]
  · have h1 : ∀ o', bit dec c i 1 o' = false := fun o' =>
      (not_bit_iff hi (.inl rfl)).mpr fun h => hnear rfl (by cases o' <;> simp [h])
    cases o with
    | RS => simp [h1, hbit]
    | RT => simp [h1, hbit, (not_bit_iff hi (.inr rfl)).mpr (hrs rfl)]

theorem hazardRecord_of_no_match {dec : List Decoded} {i : Nat} {c : Decoded} (hc : consumerAt dec i = some c)
    (h : ¬HasMatch dec i) (fwd : Bool) : hazardRecord dec fwd i = unmatchedRecord dec c i := by
  have hi := (consumerAt_eq_some.mp hc).1
  have h0 : ∀ d o, d = 1 ∨ d = 2 → bit dec c i d o = false := fun d o hd =>
    (not_bit_iff hi hd).mpr fun hm => h ⟨d, o, hm⟩
  simp [hazardRecord_eq_bits hc, h0]

/-- The three ways to a record: not examined (R121), a governing match (R125), or none (R128, R129). -/
theorem hazardRecord_cases (dec : List Decoded) (fwd : Bool) (i : Nat) :
    (¬Examined dec i ∧ hazardRecord dec fwd i = noneRecord) ∨
    (∃ c, consumerAt dec i = some c ∧ ∃ d o, Governs dec i d o ∧
      hazardRecord dec fwd i = ⟨.RAW, true, if fwd then 0 else 3 - d, d, o, sourceField c o⟩) ∨
    (∃ c, consumerAt dec i = some c ∧ ¬HasMatch dec i ∧ hazardRecord dec fwd i = unmatchedRecord dec c i) := by
  cases hc : consumerAt dec i with
  | none => exact .inl ⟨by simp [examined_iff, hc], hazardRecord_of_not_consumer hc⟩
  | some c =>
    by_cases hm : HasMatch dec i
    · obtain ⟨d, o, hg⟩ := hm.exists_governs
      exact .inr (.inl ⟨c, rfl, d, o, hg, hg.hazardRecord_eq hc fwd⟩)
    · exact .inr (.inr ⟨c, rfl, hm, hazardRecord_of_no_match hc hm fwd⟩)

/-- A record is RAW exactly for an examined index with a match (R121, R133 b). -/
theorem hazardRecord_raw_iff {dec : List Decoded} {fwd : Bool} {i : Nat} :
    (hazardRecord dec fwd i).kind = .RAW ↔ Examined dec i ∧ HasMatch dec i := by
  obtain ⟨hx, hr⟩ | ⟨c, hc, d, o, hg, hr⟩ | ⟨c, hc, hm, hr⟩ := hazardRecord_cases dec fwd i
  · simp [hr, hx, noneRecord]
  · simp only [hr, true_iff]
    exact ⟨examined_iff.mpr ⟨c, hc⟩, d, o, hg.1⟩
  · simp [hr, hm, (unmatchedRecord_cases dec c i).1]

theorem stallCycles_of_not_raw {dec : List Decoded} {fwd : Bool} {i : Nat} (h : (hazardRecord dec fwd i).kind ≠ .RAW) :
    (hazardRecord dec fwd i).stallCycles = 0 := by
  obtain ⟨-, hr⟩ | ⟨c, -, d, o, -, hr⟩ | ⟨c, -, -, hr⟩ := hazardRecord_cases dec fwd i
  · simp [hr, noneRecord]
  · simp [hr] at h
  · rw [hr, (unmatchedRecord_cases dec c i).2.1]

/-- Settles O30: the governing match is at the least distance, and its record's stall count is 3 - d. -/
theorem stallIsTheMaximumOverMatchesWithoutForwarding : Obligations.StallIsTheMaximumOverMatchesWithoutForwarding := by
  intro ws s hadm hfwd
  refine ⟨startRun ws s, exec_start_accepted hadm, fun i hi =>
    ⟨_, startRun_hz_getElem? s hi, startRun_st_getElem? s hi, fun hraw => ?_, fun hk => ?_⟩⟩
  · obtain ⟨hx, hm⟩ := hazardRecord_raw_iff.mp hraw
    obtain ⟨c, hc⟩ := examined_iff.mp hx
    obtain ⟨d, o, hg⟩ := hm.exists_governs
    rw [hg.hazardRecord_eq hc, startRun_fwdRun, hfwd]
    obtain ⟨hbit, hnear, -⟩ := hg
    obtain rfl | rfl := hbit.1
    · exact .inl ⟨hbit.rs_or_rt, rfl⟩
    · exact .inr ⟨hnear rfl, hbit.rs_or_rt, rfl⟩
  · refine stallCycles_of_not_raw fun hraw => ?_
    obtain hnone | hwaw := hk
    · exact absurd (hnone.symm.trans hraw) nofun
    · exact absurd (hwaw.symm.trans hraw) nofun

/-- Settles O33: the record of an examined index with a match is the one of its governing match. -/
theorem rawRecordExactlyOnAMatchNamesTheNearestProducer : Obligations.RawRecordExactlyOnAMatchNamesTheNearestProducer := by
  intro ws s hadm
  refine ⟨startRun ws s, exec_start_accepted hadm, fun i hx => ?_⟩
  obtain ⟨c, hc⟩ := examined_iff.mp hx
  have hi := (consumerAt_eq_some.mp hc).1
  refine ⟨_, c, startRun_hz_getElem? s (lt_length_of_record hi), hi, ?_, fun hraw => ?_⟩
  · simp only [hazardRecord_raw_iff, hx, true_and]
  · obtain ⟨d, o, hg⟩ := (hazardRecord_raw_iff.mp hraw).2.exists_governs
    rw [hg.hazardRecord_eq hc]
    obtain ⟨hbit, hnear, hrs⟩ := hg
    refine ⟨rfl, fun h1 => ?_, fun h1 => ?_, hbit, hrs, rfl⟩
    · exact hbit.1.resolve_right fun hd => hnear hd h1
    · exact hbit.1.resolve_left fun hd => h1 (hd ▸ hbit.rs_or_rt)

/-- Settles O31: under forwarding each record is the one of the other policy with no stall. -/
theorem forwardingRemovesEveryStallAndKeepsTheRestOfEachRecord :
    Obligations.ForwardingRemovesEveryStallAndKeepsTheRestOfEachRecord := by
  intro ws s hadm
  have hst : analyzeStalls ws.length (ws.map decodeRecord) true = List.replicate ws.length 0 := by
    simp [analyzeStalls, analyzeHazards, hazardRecord_forwarding, List.eq_replicate_iff]
  have hsum : (analyzeStalls ws.length (ws.map decodeRecord) true).sum = 0 := by simp [hst]
  refine ⟨startRun ws { s with fwdCfg := true }, startRun ws { s with fwdCfg := false }, exec_start_accepted hadm,
    exec_start_accepted hadm, hst, hsum, ?_, ?_⟩
  · rw [startRun_completion, hsum]
    omega
  · simp [analyzeHazards, hazardRecord_forwarding]

/-! ### WAW and NONE records -/

/-- The scan of the window: i - 2 before i - 1 (R122). -/
theorem window_find? (i : Nat) (p : Nat → Bool) :
    (window i).find? p =
      if 2 ≤ i ∧ p (i - 2) = true then some (i - 2) else if 1 ≤ i ∧ p (i - 1) = true then some (i - 1) else none := by
  by_cases h2 : 2 ≤ i
  · have h1 : 1 ≤ i := by omega
    cases hp2 : p (i - 2) <;> cases hp1 : p (i - 1) <;> simp [window, h1, h2, hp1, hp2]
  · by_cases h1 : 1 ≤ i
    · cases hp1 : p (i - 1) <;> simp [window, h1, h2, hp1]
    · simp [window, h1, h2]

open Classical in
/-- The record of a consumer without a match in terms of WritesSame: the farther producer goes first (R128, R129, D13). -/
theorem unmatchedRecord_eq {dec : List Decoded} {i : Nat} {c : Decoded} (hi : dec[i]? = some c) :
    unmatchedRecord dec c i =
      if WritesSame dec i 2 then ⟨.WAW, true, 0, 2, .RS, c.rd⟩
      else if WritesSame dec i 1 then ⟨.WAW, true, 0, 1, .RS, c.rd⟩
      else noneRecord := by
  simp only [unmatchedRecord, wawProducer, window_find?, writesSame_iff hi (.inl rfl), writesSame_iff hi (.inr rfl),
    beq_iff_eq]
  by_cases h0 : c.rd = 0#5
  · simp [h0]
  · by_cases hw2 : 2 ≤ i ∧ rdAt dec (i - 2) = c.rd
    · have hsub : i - (i - 2) = 2 := by omega
      simp [h0, hw2, wawRecord, hsub]
    · by_cases hw1 : 1 ≤ i ∧ rdAt dec (i - 1) = c.rd
      · have hsub : i - (i - 1) = 1 := by omega
        simp [h0, hw2, hw1, wawRecord, hsub]
      · simp [h0, hw2, hw1]

/-- Settles O34: without a match the record is the unmatched one, which looks at the farther producer first. -/
theorem wawRecordExactlyWithoutAMatch : Obligations.WawRecordExactlyWithoutAMatch := by
  intro ws s hadm
  refine ⟨startRun ws s, exec_start_accepted hadm, fun i hx hm => ?_⟩
  obtain ⟨c, hc⟩ := examined_iff.mp hx
  have hi := (consumerAt_eq_some.mp hc).1
  refine ⟨_, c, startRun_hz_getElem? s (lt_length_of_record hi), hi, ?_⟩
  rw [hazardRecord_of_no_match hc hm, unmatchedRecord_eq hi]
  refine ⟨fun hw => ⟨fun h2 => if_pos h2, fun h2 => ?_⟩, fun hn => ?_⟩
  · rw [if_neg h2, if_pos (hw.resolve_right h2)]
  · obtain ⟨h1, h2⟩ := not_or.mp hn
    rw [if_neg h2, if_neg h1, noneRecord]

/-! ### The window -/

/-- Two decoded lists have the same records at i, i - 1 and i - 2 (those that exist). -/
def AgreeOnWindow (dec dec' : List Decoded) (i : Nat) : Prop := ∀ j, j ≤ i → i ≤ j + 2 → dec[j]? = dec'[j]?

section
variable {dec dec' : List Decoded} {i : Nat} (h : AgreeOnWindow dec dec' i)
include h

theorem AgreeOnWindow.rdAt_eq (d : Nat) (hd : d ≤ 2) : rdAt dec (i - d) = rdAt dec' (i - d) := by
  simp only [rdAt, h (i - d) (by omega) (by omega)]

theorem AgreeOnWindow.bit_eq (c : Decoded) (d : Nat) (o : Operand) (hd : d ≤ 2) : bit dec c i d o = bit dec' c i d o := by
  simp only [bit, h.rdAt_eq d hd]

theorem AgreeOnWindow.consumerAt_eq : consumerAt dec i = consumerAt dec' i := by
  simp only [consumerAt, h i (by omega) (by omega)]

theorem AgreeOnWindow.matchList_eq : matchList dec i = matchList dec' i := by
  cases hc : consumerAt dec i with
  | none => rw [matchList_of_not_consumer hc, matchList_of_not_consumer (h.consumerAt_eq ▸ hc)]
  | some c =>
    rw [matchList_eq_bits hc, matchList_eq_bits (h.consumerAt_eq ▸ hc)]
    simp only [h.bit_eq c 1 _ (by omega), h.bit_eq c 2 _ (by omega)]

theorem AgreeOnWindow.edgesAt_eq (fwd : Bool) : edgesAt dec fwd i = edgesAt dec' fwd i := by
  have hedge : ∀ m ∈ matchList dec' i, edgeOf dec i m = edgeOf dec' i m := by
    intro m hm
    obtain ⟨-, hb, hj⟩ := mem_matchList.mp hm
    have hd := hb.1
    simp only [edgeOf, hj, h.rdAt_eq m.d (by omega)]
  simp only [edgesAt, h.matchList_eq, List.map_congr_left hedge]

theorem AgreeOnWindow.unmatchedRecord_eq (c : Decoded) : unmatchedRecord dec c i = unmatchedRecord dec' c i := by
  simp only [unmatchedRecord, wawProducer, window_find?, h.rdAt_eq 1 (by omega), h.rdAt_eq 2 (by omega)]

theorem AgreeOnWindow.hazardRecord_eq (fwd : Bool) : hazardRecord dec fwd i = hazardRecord dec' fwd i := by
  cases hc : consumerAt dec i with
  | none => rw [hazardRecord_of_not_consumer hc, hazardRecord_of_not_consumer (h.consumerAt_eq ▸ hc)]
  | some c =>
    rw [hazardRecord_eq_bits hc, hazardRecord_eq_bits (h.consumerAt_eq ▸ hc)]
    simp only [h.bit_eq c 1 _ (by omega), h.bit_eq c 2 _ (by omega), h.rdAt_eq 1 (by omega), h.rdAt_eq 2 (by omega),
      h.unmatchedRecord_eq]

end

/-- Settles O36: the classifier and the selector read DEC within the window alone. -/
theorem hazardRecordDependsOnTheWindowAlone : Obligations.HazardRecordDependsOnTheWindowAlone := by
  intro ws ws' s i hadm hadm' hi hi' h
  have hwin : AgreeOnWindow (ws.map decodeRecord) (ws'.map decodeRecord) i := by
    simpa only [AgreeOnWindow, List.getElem?_map] using h
  refine ⟨startRun ws s, startRun ws' s, exec_start_accepted hadm, exec_start_accepted hadm', ?_⟩
  simp only [startRun_hz_getElem? s hi, startRun_hz_getElem? s hi', startRun_edges_getElem? s hi,
    startRun_edges_getElem? s hi', startRun_st_getElem? s hi, startRun_st_getElem? s hi', startRun_dec, startRun_fwdRun,
    hwin.hazardRecord_eq, hwin.edgesAt_eq, and_self]

/-! ### The edges -/

/-- M(i) is a part of the four possible matches, in their scan order (R122, R124). -/
theorem matchList_sublist (dec : List Decoded) (i : Nat) :
    (matchList dec i).Sublist [⟨i - 2, 2, .RS⟩, ⟨i - 2, 2, .RT⟩, ⟨i - 1, 1, .RS⟩, ⟨i - 1, 1, .RT⟩] := by
  have hone : ∀ (b : Bool) (m : Match), (if b then [m] else []).Sublist [m] := by
    intro b m
    cases b with
    | false => exact List.nil_sublist _
    | true => exact List.Sublist.refl _
  cases hc : consumerAt dec i with
  | none => simp [matchList_of_not_consumer hc]
  | some c =>
    rw [matchList_eq_bits hc]
    exact ((hone _ _).append (hone _ _)).append ((hone _ _).append (hone _ _))

/-- A producer and operand stand in M(i) at most once (R124). -/
theorem matchList_nodup (dec : List Decoded) (i : Nat) : (matchList dec i).Nodup :=
  (matchList_sublist dec i).nodup (by simp)

/-- Under forwarding each match of an examined index gives one edge (R140, R141, D14). -/
theorem edgesAt_countP_eq_one {dec : List Decoded} {i d : Nat} {o : Operand} (hx : Examined dec i) (hm : MatchBit dec i d o) :
    (edgesAt dec true i).countP (fun e => e.fromIndex == i - d && e.operand == o) = 1 := by
  have hmem : (⟨i - d, d, o⟩ : Match) ∈ matchList dec i := mem_matchList.mpr ⟨hx, hm, rfl⟩
  have honly : ∀ m ∈ matchList dec i, (m.j == i - d && m.operand == o) = true ↔ (m == ⟨i - d, d, o⟩) = true := by
    intro m hmm
    obtain ⟨j, d', o'⟩ := m
    obtain ⟨-, ⟨-, (hd' : d' ≤ i), -⟩, (hj : j = i - d')⟩ := mem_matchList.mp hmm
    obtain ⟨-, hd, -⟩ := hm
    have hdist : j = i - d ↔ j = i - d ∧ d' = d := by omega
    simp only [Bool.and_eq_true, beq_iff_eq, Match.mk.injEq, ← and_assoc, ← hdist]
  calc (edgesAt dec true i).countP (fun e => e.fromIndex == i - d && e.operand == o)
      = (matchList dec i).countP (fun m => m.j == i - d && m.operand == o) := by
        simp only [edgesAt, if_true, List.countP_map]
        rfl
    _ = (matchList dec i).count ⟨i - d, d, o⟩ := List.countP_congr honly
    _ = 1 := List.count_eq_one_of_mem (matchList_nodup dec i) hmem

/-- An edge carries the register its producer writes, which its operand names (R141, D15). -/
theorem fields_of_mem_edgesAt {dec : List Decoded} {fwd : Bool} {i : Nat} {e : Edge} (he : e ∈ edgesAt dec fwd i) :
    e.toIndex = i ∧ MatchBit dec i (i - e.fromIndex) e.operand ∧
      ∃ c p, dec[i]? = some c ∧ dec[e.fromIndex]? = some p ∧ e.registerLabel = p.rd ∧
        e.registerLabel ≠ 0#5 ∧ e.registerLabel = sourceField c e.operand := by
  obtain ⟨-, -, d, o, hm, rfl⟩ := mem_edgesAt.mp he
  obtain ⟨-, hd, c, p, hc, hp, h0, hs⟩ := id hm
  have hsub : i - (i - d) = d := by omega
  simp only [hsub, rdAt_of_some hp, true_and]
  exact ⟨hm, c, p, hc, hp, rfl, h0, hs.symm⟩

theorem edgesAt_ne_nil_iff {dec : List Decoded} {fwd : Bool} {i : Nat} :
    edgesAt dec fwd i ≠ [] ↔ fwd = true ∧ Examined dec i ∧ HasMatch dec i := by
  constructor
  · intro hne
    obtain ⟨e, he⟩ := List.exists_mem_of_ne_nil _ hne
    obtain ⟨hf, hx, d, o, hm, -⟩ := mem_edgesAt.mp he
    exact ⟨hf, hx, d, o, hm⟩
  · rintro ⟨hf, hx, d, o, hm⟩
    exact List.ne_nil_of_mem (mem_edgesAt.mpr ⟨hf, hx, d, o, hm, rfl⟩)

/-- Settles O37: the edges are the matches of M(i), which are the match bits. -/
theorem edgesAreExactlyTheMatchesUnderForwarding : Obligations.EdgesAreExactlyTheMatchesUnderForwarding := by
  intro ws s hadm
  refine ⟨startRun ws s, exec_start_accepted hadm, analyzeHazards_length _ _ _, analyzeEdges_length _ _ _, fun i hi =>
    ⟨_, _, startRun_hz_getElem? s hi, startRun_edges_getElem? s hi, ?_, ?_⟩⟩
  · intro hoff
    by_contra hne
    obtain ⟨hf, hraw⟩ := edgesAt_ne_nil_iff.mp hne
    obtain hf' | hkind := hoff
    · exact Bool.false_ne_true (hf'.symm.trans hf)
    · exact hkind (hazardRecord_raw_iff.mpr hraw)
  · intro hf
    rw [hf]
    exact ⟨by simp only [edgesAt_ne_nil_iff, hazardRecord_raw_iff, true_and], fun d o hx hm => edgesAt_countP_eq_one hx hm,
      fun e he => fields_of_mem_edgesAt he⟩

/-! ### The mask and the selects -/

theorem selectOf_code (ex mem : Bool) : (selectOf ex mem).code = if ex then 1#2 else if mem then 2#2 else 0#2 := by
  cases ex <;> cases mem <;> rfl

/-- A mask whose four bits are 0 has code 0 and selects the register file twice (R144, R145). -/
theorem selects_of_no_matchBit {s : State} {i : Nat} (h : ∀ d o, (s.fwdRun && matchBit s.dec i d o) = false) :
    (fwdMask s i).code = 0#4 ∧ (fselA s i).code = 0#2 ∧ (fselB s i).code = 0#2 := by
  have hmask : fwdMask s i = ⟨false, false, false, false⟩ := by simp only [fwdMask, h]
  rw [fselA, fselB, hmask]
  decide

/-- Settles O39: the mask holds the match bits of an examined index, and of no other. -/
theorem selectsFollowTheMatchBitsNearestFirst : Obligations.SelectsFollowTheMatchBitsNearestFirst := by
  intro ws s hadm
  refine ⟨startRun ws s, exec_start_accepted hadm, fun i hx => ?_, fun i c hc hnever => ?_⟩
  · have hbit : ∀ d o, ((startRun ws s).fwdRun && matchBit (startRun ws s).dec i d o) = true ↔
        (startRun ws s).fwdRun = true ∧ MatchBit (startRun ws s).dec i d o := fun d o => by
      simp only [Bool.and_eq_true, matchBit_eq_true, hx, true_and]
    exact ⟨hbit 1 .RS, hbit 2 .RS, hbit 1 .RT, hbit 2 .RT, selectOf_code _ _, selectOf_code _ _,
      fun hf => selects_of_no_matchBit fun d o => by rw [hf, Bool.false_and]⟩
  · refine selects_of_no_matchBit fun d o => ?_
    rw [matchBit_of_not_consumer (consumerAt_eq_none hc hnever), Bool.and_false]

end Sys2Proof.Machine
end

section
/-! SUPPORT. The remaining selector statements (spec/42_forwarding_selector.md): the stages an edge joins (R142), and the live
selects (R146), which read the one instruction shown in EX (R164). -/

namespace Sys2Proof.Machine

/-! ### The stages of an edge -/

/-- A list of edges in the table is that of one index (R120, R140). -/
theorem mem_analyzeEdges {n : Nat} {dec : List Decoded} {fwd : Bool} {es : List Edge} :
    es ∈ analyzeEdges n dec fwd ↔ ∃ i, i < n ∧ edgesAt dec fwd i = es := by
  simp only [analyzeEdges, List.mem_map, List.mem_range]

/-- An edge ends in EX; it starts in EX one position before its consumer or in MEM two before it, as its match is at
distance 1 or 2 (R141, R142). -/
theorem stages_of_mem_edgesAt {dec : List Decoded} {fwd : Bool} {i : Nat} {e : Edge} (he : e ∈ edgesAt dec fwd i) :
    e.toStage = .EX ∧
      (e.fromStage = .EX ∧ e.toIndex = e.fromIndex + 1 ∨ e.fromStage = .MEM ∧ e.toIndex = e.fromIndex + 2) := by
  obtain ⟨-, -, d, o, ⟨hd, hle, -⟩, rfl⟩ := mem_edgesAt.mp he
  have hspan : i = i - d + d := by omega
  obtain rfl | rfl := hd
  · exact ⟨rfl, .inl ⟨rfl, hspan⟩⟩
  · exact ⟨rfl, .inr ⟨rfl, hspan⟩⟩

/-- Settles O38: every list of the table is that of one index, whose edges are those of its matches. -/
theorem edgesComeFromEXOrMEMIntoEXWithinTwo : Obligations.EdgesComeFromEXOrMEMIntoEXWithinTwo := by
  intro ws s hadm
  refine ⟨startRun ws s, exec_start_accepted hadm, fun es e hes he => ?_⟩
  obtain ⟨i, -, rfl⟩ := mem_analyzeEdges.mp hes
  exact stages_of_mem_edgesAt he

/-! ### The live selects -/

/-- The index read for the live selects is the one shown in EX: there is at most one (R146, R164). -/
theorem Inv.indexInEX_eq_some {s : State} (h : Inv s) {e : Nat} : indexInEX s = some e ↔ s.stage[e]? = some .EX := by
  have hshown : ∀ {k}, indexInEX s = some k → s.stage[k]? = some .EX := fun hk => by
    simpa using List.find?_some hk
  refine ⟨hshown, fun he => ?_⟩
  cases hk : indexInEX s with
  | none =>
    obtain ⟨hlt, -⟩ := List.getElem?_eq_some_iff.mp he
    have hmem : e ∈ List.range s.n := List.mem_range.mpr (h.lengths.2 ▸ hlt)
    exact absurd (beq_iff_eq.mpr he) (List.find?_eq_none.mp hk e hmem)
  | some k => rw [h.shown_unique (by decide) (hshown hk) he]

theorem exSel_of_some {s : State} {e : Nat} (h : indexInEX s = some e) : exSelA s = fselA s e ∧ exSelB s = fselB s e := by
  simp only [exSelA, exSelB, h, and_self]

theorem exSel_of_none {s : State} (h : indexInEX s = none) : exSelA s = .regFile ∧ exSelB s = .regFile := by
  simp only [exSelA, exSelB, h, and_self]

/-- Without forwarding every instruction reads the register file (R140, R145). -/
theorem fsel_of_not_forwarding {s : State} (h : s.fwdRun = false) (i : Nat) :
    fselA s i = .regFile ∧ fselB s i = .regFile := by
  simp [fselA, fselB, fwdMask, h, selectOf]

/-- Settles O40: the index the live selects read is the one shown in EX. -/
theorem liveSelectsAreThoseOfTheInstructionInEX : Obligations.LiveSelectsAreThoseOfTheInstructionInEX := by
  intro s hinv
  refine ⟨fun e he => exSel_of_some (hinv.indexInEX_eq_some.mpr he), fun hoff => ?_⟩
  cases hex : indexInEX s with
  | none => exact exSel_of_none hex
  | some e =>
    have hfwd : s.fwdRun = false := hoff.resolve_left fun hno => hno e (hinv.indexInEX_eq_some.mp hex)
    obtain ⟨ha, hb⟩ := exSel_of_some hex
    rw [ha, hb]
    exact fsel_of_not_forwarding hfwd e

end Sys2Proof.Machine
end

section
/-! SUPPORT. The stall sequencer statements (spec/43_stall_sequencer.md): the paths of a TICK (R155, R157, R161, R162), the
order of the pipeline (R164), the freeze and the jump after it (R165, R168), and a paused run (R169). -/

namespace Sys2Proof.Machine

/-! ### The paths of a TICK -/

/-- Settles O21: a TICK takes one of four paths, and the tests of the paths exclude each other. -/
theorem tickIsANoOpUnlessRunningAndUnfinished : Obligations.TickIsANoOpUnlessRunningAndUnfinished := by
  intro s
  obtain ⟨hstop, ht⟩ | ⟨hr, hf, hs, ht⟩ | ⟨hr, hf, hs, hc, ht⟩ | ⟨hr, hf, hs, hc, ht⟩ := exec_tick_cases s
  · refine ⟨noChange s, ht, fun _ => rfl, fun ⟨hr, hf⟩ => ?_⟩
    simp [hr, hf] at hstop
  · refine ⟨tickFrozen s, ht, by simp [hr, hf], fun _ => ⟨fun _ => ⟨?_, rfl, hf, hr⟩, by omega, by omega⟩⟩
    exact Nat.sub_add_cancel hs
  · exact ⟨tickFinish s, ht, by simp [hr, hf], fun _ => ⟨by omega, fun _ => ⟨rfl, rfl⟩, by omega⟩⟩
  · exact ⟨tickOrdinary s, ht, by simp [hr, hf], fun _ => ⟨by omega, by omega, fun _ => ⟨rfl, hf, hr⟩⟩⟩

/-- Settles O22, by the frozen path alone. -/
theorem frozenTickCountsDownAndLeavesTheStageMap : Obligations.FrozenTickCountsDownAndLeavesTheStageMap :=
  fun s hr hf hs => ⟨tickFrozen s, exec_tick_frozen hr hf hs, rfl⟩

theorem stallAt_eq_zero {st : List Nat} {k : Nat} (h : ∀ q, st[k]? = some q → q = 0) : stallAt st k = 0 := by
  cases hq : st[k]? with
  | none => simp [stallAt, hq]
  | some q => rw [stallAt_of_some hq, h q hq]

/-- Settles O23: the new map is the map of CYCLE + 1, and the new STALL_REM the trigger there. -/
theorem ordinaryTickComputesTheStageMapAndTheTrigger : Obligations.OrdinaryTickComputesTheStageMapAndTheTrigger := by
  intro s hr hf hs hc
  refine ⟨tickOrdinary s, exec_tick_ordinary hr hf hs hc, rfl, stageMap_length _ _ _, ?map, ?fires, ?silent, rfl⟩
  case map =>
    intro k hk
    exact ⟨_, stageMap_getElem? s.st (s.cycle + 1) hk, fun hsi => stageOfIndex_code hsi.1 hsi.2, stageOfIndex_none⟩
  case fires =>
    intro k q hk hid hq _
    exact (trigger_eq hk hid.symm).trans (stallAt_of_some hq)
  case silent =>
    intro hz
    exact trigger_eq_zero fun k hk hid => stallAt_eq_zero fun q => hz k q hk hid.symm

/-- Where CYCLE is COMPLETION and no freeze is left, the finishing TICK writes the map and the two flags alone (R161). -/
theorem tickFinish_frame {s : State} (hc : s.completion = s.cycle) (hs : s.stallRem = 0) :
    { tickFinish s with stage := s.stage, finished := s.finished, running := s.running, reject := s.reject } = s := by
  cases s
  simp_all [tickFinish]

/-- Settles O24: the finishing TICK of the invariant is at CYCLE = COMPLETION, and the map past COMPLETION is empty. -/
theorem finishingTickCapsTheCycleAndEmptiesThePipeline : Obligations.FinishingTickCapsTheCycleAndEmptiesThePipeline := by
  intro s h hr hs hc
  obtain ⟨hn, hf⟩ := h.runningRun hr
  have hcyc : s.completion = s.cycle := by have := h.cycle_le; omega
  have hempty : stageMap s.n s.st (s.cycle + 1) = List.replicate s.n .NONE :=
    stageMap_past_completion h.st_length (by have := h.completion_eq hn; omega)
  exact ⟨tickFinish s, exec_tick_finish hr hf hs hc, rfl, rfl, rfl, hcyc, rfl, hempty, tickFinish_frame hcyc hs⟩

/-! ### The order of the pipeline -/

/-- The stage in which an instruction is shown tells how long ago it was in ID (R159, R165). -/
theorem code_add_idCycle_of_shown {n k c : Nat} {st : List Nat} {x : Stage} (h : (stageMap n st c)[k]? = some x)
    (hx : x ≠ .NONE) : x.code.toNat + idCycle st k = c + 1 := by
  obtain ⟨-, rfl⟩ := stageMap_getElem?_eq_some.mp h
  obtain ⟨h0, h5⟩ := stageOfIndex_ne_none hx
  have hcode := stageOfIndex_code h0 h5
  rw [stageIndex_eq] at hcode ⊢
  omega

/-- Settles O25: both stages are those of one map, and the later instruction is in ID later. -/
theorem oneInstructionPerStageInProgramOrder : Obligations.OneInstructionPerStageInProgramOrder := by
  intro s h k k' x x' hk hx hx' hne hne'
  obtain ⟨c, -, -, hc⟩ := h.shown
  rw [hc] at hx hx'
  have := code_add_idCycle_of_shown hx hne
  have := code_add_idCycle_of_shown hx' hne'
  have := idCycle_lt s.st hk
  omega

/-! ### The freeze and the jump -/

theorem hold_eq_true {s : State} : hold s = true ↔ s.stallRem > 0 := decide_eq_true_iff

theorem hold_eq_false {s : State} : hold s = false ↔ s.stallRem = 0 := by simp [hold]

/-- The state j frozen TICKs later: the count and CYCLE have moved, nothing else (R157). -/
def frozenFor (j : Nat) (s : State) : State := { s with stallRem := s.stallRem - j, cycle := s.cycle + j }

/-- The first STALL_REM TICKs of a running run are frozen ones. `reject` is 0 after each of them, and so before the first. -/
theorem runTicks_frozen {s : State} (hr : s.running = true) (hf : s.finished = false) (hrej : s.reject = false) {j : Nat}
    (hj : j ≤ s.stallRem) : runTicks j s = .next (frozenFor j s) := by
  induction j with
  | zero => rfl
  | succ j ih =>
    have hleft : (frozenFor j s).stallRem > 0 := Nat.sub_pos_of_lt hj
    rw [runTicks_add_one (ih (by omega)), exec_tick_frozen (s := frozenFor j s) hr hf hleft]
    simp [tickFrozen, frozenFor, hrej, Nat.sub_sub, Nat.add_assoc]

/-- Instruction k at d cycles after T(k) is d stages past ID (R158, R165). -/
theorem stageMap_after_idCycle {n k : Nat} (st : List Nat) (d : Nat) (hk : k < n) :
    (stageMap n st (idCycle st k + d))[k]? = some (stageOfIndex (d + 1)) := by
  rw [stageMap_getElem? st _ hk, stageIndex_eq]
  congr 2
  omega

/-- The TICK after a freeze is at or below COMPLETION (R166). -/
theorem Inv.freeze_end_lt_completion {s : State} (h : Inv s) {k : Nat} (hk : k < s.n) :
    idCycle s.st k + stallAt s.st k < s.completion := by
  have := freeze_end_lt hk h.st_length
  rw [h.completion_eq (Nat.ne_zero_of_lt hk)]
  omega

/-- Settles O26: an ordinary TICK to T(k) starts the freeze of k, q frozen TICKs use it up, and the ordinary TICK after them
shows the map of T(k) + q + 1, which is T(k + 1). -/
theorem freezeHoldsTheMapAndTheInstructionThenJumps : Obligations.FreezeHoldsTheMapAndTheInstructionThenJumps := by
  intro s k q h hr hs hk hid hq hpos
  obtain ⟨-, hf⟩ := h.runningRun hr
  have hqk : stallAt s.st k = q := stallAt_of_some hq
  have hlt : idCycle s.st k + q < s.completion := hqk ▸ h.freeze_end_lt_completion hk
  have hrem : (tickOrdinary s).stallRem = q := (trigger_eq hk hid.symm).trans hqk
  have hfreeze : ∀ j, j ≤ q → runTicks j (tickOrdinary s) = .next (frozenFor j (tickOrdinary s)) :=
    fun j hj => runTicks_frozen (s := tickOrdinary s) hr hf rfl (hj.trans_eq hrem.symm)
  have hcyc : ∀ j, (frozenFor j (tickOrdinary s)).cycle = idCycle s.st k + j := fun j => congrArg (· + j) hid
  have hleft : ∀ j, (frozenFor j (tickOrdinary s)).stallRem = q - j := fun j => congrArg (· - j) hrem
  refine ⟨tickOrdinary s, exec_tick_ordinary hr hf hs (by omega), ?inID, hrem, hold_eq_true.mpr (by omega), ?held, ?jump⟩
  case inID =>
    rw [tickOrdinary_stage, hid]
    exact stageMap_after_idCycle s.st 0 hk
  case held =>
    intro j hj
    refine ⟨_, hfreeze j hj, rfl, hleft j, hcyc j, fun hjq => ?_, fun hjq => ?_⟩
    · exact hold_eq_true.mpr (by rw [hleft]; omega)
    · exact hold_eq_false.mpr (by rw [hleft]; omega)
  case jump =>
    have hthawed : (frozenFor q (tickOrdinary s)).stallRem = 0 := by rw [hleft, Nat.sub_self]
    have htick := exec_tick_ordinary (s := frozenFor q (tickOrdinary s)) hr hf hthawed (by rw [hcyc]; exact hlt)
    have hmap : (tickOrdinary (frozenFor q (tickOrdinary s))).stage = stageMap s.n s.st (idCycle s.st k + (q + 1)) := by
      rw [tickOrdinary_stage, hcyc]
      rfl
    refine ⟨_, (runTicks_add_one (hfreeze q (Nat.le_refl q))).trans htick, ?_, fun hk1 => ?_⟩
    · have hle : q ≤ 2 := h.st_le_two q (List.mem_of_getElem? hq)
      rw [hmap, stageMap_after_idCycle s.st (q + 1) hk]
      obtain rfl | rfl : q = 1 ∨ q = 2 := by omega
      · rfl
      · rfl
    · have hnext : idCycle s.st k + (q + 1) = idCycle s.st (k + 1) := by rw [idCycle_succ, hqk]; omega
      rw [hmap, hnext]
      exact stageMap_after_idCycle s.st 0 hk1

/-! ### A paused run -/

/-- TICKs while RUNNING = 0 or FINISHED = 1 change nothing (R155). -/
theorem runTicks_stopped {s : State} (h : s.running = false ∨ s.finished = true) (hrej : s.reject = false) (j : Nat) :
    runTicks j s = .next s := by
  have hquiet : noChange s = s := by rw [noChange, ← hrej]
  induction j with
  | zero => rfl
  | succ j ih => rw [runTicks_add_one ih, exec_tick_stopped h, hquiet]

/-- Settles O29: PAUSE stops the run, the TICKs find it stopped, and RESUME finds a started run that is not finished. -/
theorem pauseTicksResumeLeaveARunningRunAsItWas : Obligations.PauseTicksResumeLeaveARunningRunAsItWas := by
  intro s j h hr
  obtain ⟨hn, hf⟩ := h.runningRun hr
  obtain ⟨hcyc, -⟩ := h.bounds hn
  have hpause : exec .pause s = .next { s with running := false, reject := false } := rfl
  have hticks := runTicks_stopped (s := { s with running := false, reject := false }) (.inl rfl) rfl j
  have hresume := exec_resume_of_paused (s := { s with running := false, reject := false }) hcyc hf
  have hback : { s with running := true, reject := false } = quiet s := by rw [← hr]; rfl
  rw [runInstrs_cons hpause, runInstrs_append hticks, runInstrs_cons hresume, ← hback]
  rfl

end Sys2Proof.Machine
end

section
/-! SUPPORT. The command statements (spec/44_commands.md): which command a step takes (R180), what each command answers (R181 to
R189), the output `reject` (R183, R202), and the transition table of the top-level states (R190, R206). -/

namespace Sys2Proof.Machine

/-! ### The command of a step -/

theorem takeCommand_of_cons {s : State} {p : PortCommand} {rest : List PortCommand} (h : s.port = p :: rest) :
    takeCommand s = (p, { s with port := rest }) := by
  simp only [takeCommand, h]

theorem takeCommand_of_nil {s : State} (h : s.port = []) : takeCommand s = (plainCommand 0#3, s) := by
  simp only [takeCommand, h]

/-- Settles O47: the command taken is the head of the port, or the command of code 0, which decodes to NOP. -/
theorem stepRunsTheDecodedCommand : Obligations.StepRunsTheDecodedCommand := by
  constructor
  · intro s p rest h
    rw [step, takeCommand_of_cons h]
  · intro s h
    rw [step, takeCommand_of_nil h]
    rfl

/-! ### Commands with one rule -/

/-- Settles O11: both arms are `noChange`. -/
theorem nopAndReservedCodeChangeNothing : Obligations.NopAndReservedCodeChangeNothing := fun _ => ⟨rfl, rfl⟩

/-- Settles O14: the arm of PAUSE tests nothing. -/
theorem pauseClearsRunningAlone : Obligations.PauseClearsRunningAlone := fun _ => rfl

/-- Settles O15: what RESET does not write is FWD_CFG, NMAX and the port. -/
theorem resetCommandGivesThePowerOnStateWithThePolicyKept : Obligations.ResetCommandGivesThePowerOnStateWithThePolicyKept :=
  fun _ => rfl

/-- Settles O12, by the test of RESUME. -/
theorem resumeSetsRunningOfAStartedUnfinishedRun : Obligations.ResumeSetsRunningOfAStartedUnfinishedRun := by
  intro s
  by_cases h : s.cycle > 0 ∧ s.finished = false
  · refine ⟨_, exec_resume_of_paused h.1 h.2, ?_⟩
    rw [if_pos h]
    rfl
  · refine ⟨_, exec_resume_otherwise h, ?_⟩
    rw [if_neg h]
    rfl

/-- Settles O13: the START after it reads the policy that SETFWD wrote. -/
theorem setfwdWritesThePolicyAlone : Obligations.SetfwdWritesThePolicyAlone := by
  intro en s
  refine ⟨{ s with fwdCfg := en, reject := false }, rfl, rfl, fun ws hadm => ?_⟩
  exact ⟨_, exec_start_accepted (s := { s with fwdCfg := en, reject := false }) hadm, rfl, rfl, rfl, rfl⟩

/-! ### START and the output `reject` -/

/-- Settles O19: the fields of `startRun`, with the map of cycle 1 written out. -/
theorem startAcceptedReplacesTheRun : Obligations.StartAcceptedReplacesTheRun := by
  intro ws s hadm
  have hstage : (startRun ws s).stage = .IF :: List.replicate (ws.length - 1) .NONE :=
    stageMap_one _ (admits_pos hadm)
  exact ⟨startRun ws s, exec_start_accepted hadm, rfl, rfl, rfl, rfl, rfl, rfl, rfl, rfl, rfl, rfl, hstage, rfl, rfl, rfl,
    rfl, rfl, rfl, rfl⟩

theorem admits_zero (c : Capacity) : c.admits 0 = false := by
  cases c <;> simp [Capacity.admits]

theorem admits_of_gt {p n : Nat} (h : p + 1 < n) : (Capacity.upTo p).admits n = false := by
  simp only [Capacity.admits, decide_eq_false_iff_not]
  omega

/-- Settles O17: neither length is admitted. -/
theorem startRejectedChangesNoState : Obligations.StartRejectedChangesNoState := by
  constructor
  · exact fun s => exec_start_rejected (admits_zero s.nmax)
  · intro s p ws hnmax hlen
    exact exec_start_rejected (by rw [hnmax, admits_of_gt hlen])

/-- Only a START tests its precondition; every other command answers `reject` = 0 and has none (R183, R202). -/
theorem exec_decodeCommand_reject (p : PortCommand) (s : State) :
    ∃ t, exec (decodeCommand p) s = .next t ∧ t.reject = !(decodeCommand p).wf s.nmax := by
  obtain h | ⟨-, h⟩ | ⟨-, h⟩ | h | h | ⟨-, h⟩ | h | h := decodeCommand_cases p <;> rw [h]
  · exact ⟨_, rfl, rfl⟩
  · cases hadm : s.nmax.admits p.words.length with
    | true => exact ⟨_, exec_start_accepted hadm, by simp [Instr.wf, hadm]⟩
    | false => exact ⟨_, exec_start_rejected hadm, by simp [Instr.wf, hadm]⟩
  · exact ⟨_, rfl, rfl⟩
  · exact ⟨_, rfl, rfl⟩
  · by_cases hstarted : s.cycle > 0 ∧ s.finished = false
    · exact ⟨_, exec_resume_of_paused hstarted.1 hstarted.2, rfl⟩
    · exact ⟨_, exec_resume_otherwise hstarted, rfl⟩
  · exact ⟨_, rfl, rfl⟩
  · obtain ⟨-, ht⟩ | ⟨-, -, -, ht⟩ | ⟨-, -, -, -, ht⟩ | ⟨-, -, -, -, ht⟩ := exec_tick_cases s <;> exact ⟨_, ht, rfl⟩
  · exact ⟨_, rfl, rfl⟩

/-- Settles O18: taking the command from the port leaves NMAX, and START alone can reject. -/
theorem rejectIsExactlyAStartOutsideItsPreconditions : Obligations.RejectIsExactlyAStartOutsideItsPreconditions := by
  intro s
  obtain ⟨t, hstep, hrej⟩ := exec_decodeCommand_reject (takeCommand s).1 (takeCommand s).2
  have hnmax : (takeCommand s).2.nmax = s.nmax := (congrArg State.nmax (takeCommand_frame s) :)
  exact ⟨t, hstep, by rw [hrej, hnmax, Bool.not_eq_true']⟩

/-! ### The top-level states -/

/-- The rows of R206: the values of CYCLE, RUNNING and FINISHED that encode each top-level state. -/
inductive InTopState (s : State) : TopState → Prop
  | notStarted (hc : s.cycle = 0) (hr : s.running = false) (hf : s.finished = false) : InTopState s .NotStarted
  | running (hc : s.cycle ≠ 0) (hr : s.running = true) (hf : s.finished = false) : InTopState s .Running
  | paused (hc : s.cycle ≠ 0) (hr : s.running = false) (hf : s.finished = false) : InTopState s .Paused
  | finished (hc : s.cycle ≠ 0) (hr : s.running = false) (hf : s.finished = true) (hlast : s.cycle = s.completion) :
      InTopState s .Finished

theorem InTopState.topState_eq {s : State} {x : TopState} (h : InTopState s x) : topState s = some x := by
  cases h with
  | notStarted hc hr hf => simp [topState, hc, hr, hf]
  | running hc hr hf => simp [topState, hc, hr, hf]
  | paused hc hr hf => simp [topState, hc, hr, hf]
  | finished hc hr hf hlast => simp [topState, hlast ▸ hc, hr, hf, hlast]

/-- Every state of the invariant is in a row of R206: a run has CYCLE at least 1, and no state is running and finished. -/
theorem Inv.exists_inTopState {s : State} (h : Inv s) : ∃ x, InTopState s x := by
  have hcyc : s.n ≠ 0 → s.cycle ≠ 0 := fun hn => Nat.ne_of_gt (h.bounds hn).1
  cases hf : s.finished with
  | true =>
    obtain ⟨hn, hlast, -, -⟩ := h.finishedRun hf
    have hr : s.running = false := Bool.eq_false_iff.mpr fun hr => by simp [(h.runningRun hr).2] at hf
    exact ⟨_, .finished (hcyc hn) hr hf hlast⟩
  | false =>
    cases hr : s.running with
    | true => exact ⟨_, .running (hcyc (h.runningRun hr).1) hr hf⟩
    | false =>
      by_cases hc : s.cycle = 0
      · exact ⟨_, .notStarted hc hr hf⟩
      · exact ⟨_, .paused hc hr hf⟩

section
variable {s : State} {x : TopState} (hx : InTopState s x)
include hx

theorem InTopState.after_start (ws : List Word) : ∃ t, exec (.start ws) s = .next t ∧
    topState t = some (if s.nmax.admits ws.length = true then .Running else x) := by
  cases hadm : s.nmax.admits ws.length with
  | true => exact ⟨_, exec_start_accepted hadm, rfl⟩
  | false => exact ⟨_, exec_start_rejected hadm, hx.topState_eq⟩

theorem InTopState.after_pause :
    ∃ t, exec .pause s = .next t ∧ topState t = some (if x = .Running then .Paused else x) := by
  refine ⟨{ s with running := false, reject := false }, rfl, ?_⟩
  apply InTopState.topState_eq
  cases hx with
  | notStarted hc hr hf => exact .notStarted hc rfl hf
  | running hc hr hf => exact .paused hc rfl hf
  | paused hc hr hf => exact .paused hc rfl hf
  | finished hc hr hf hlast => exact .finished hc rfl hf hlast

theorem InTopState.after_resume :
    ∃ t, exec .resume s = .next t ∧ topState t = some (if x = .Paused then .Running else x) := by
  have hstay (h : ¬(s.cycle > 0 ∧ s.finished = false)) : ∃ t, exec .resume s = .next t ∧ topState t = some x :=
    ⟨_, exec_resume_otherwise h, hx.topState_eq⟩
  have hrun (hc : s.cycle ≠ 0) (hf : s.finished = false) : ∃ t, exec .resume s = .next t ∧ topState t = some .Running :=
    ⟨_, exec_resume_of_paused (Nat.pos_of_ne_zero hc) hf, InTopState.topState_eq (.running hc rfl hf)⟩
  cases hx with
  | notStarted hc hr hf => exact hstay (by simp [hc])
  | running hc hr hf => exact hrun hc hf
  | paused hc hr hf => exact hrun hc hf
  | finished hc hr hf hlast => exact hstay (by simp [hf])

theorem InTopState.eq_running_iff : x = .Running ↔ s.running = true ∧ s.finished = false := by
  cases hx with
  | notStarted _ hr _ => simp [hr]
  | running _ hr hf => simp [hr, hf]
  | paused _ hr _ => simp [hr]
  | finished _ hr _ _ => simp [hr]

/-- Of the paths of a TICK the finishing one alone leaves Running, and the invariant puts it at CYCLE = COMPLETION (R161). -/
theorem InTopState.after_tick (hinv : Inv s) : ∃ t, exec .tick s = .next t ∧
    topState t = some (if x = .Running ∧ s.stallRem = 0 ∧ s.cycle = s.completion then .Finished else x) := by
  obtain ⟨hstop, ht⟩ | ⟨hr, hf, hs, ht⟩ | ⟨hr, hf, hs, hc, ht⟩ | ⟨hr, hf, hs, hc, ht⟩ := exec_tick_cases s
  · have hx' : x ≠ .Running := by
      intro h
      obtain ⟨hr, hf⟩ := hx.eq_running_iff.mp h
      simp [hr, hf] at hstop
    exact ⟨_, ht, by rw [if_neg fun h => hx' h.1]; exact hx.topState_eq⟩
  · obtain rfl : x = .Running := hx.eq_running_iff.mpr ⟨hr, hf⟩
    refine ⟨_, ht, ?_⟩
    rw [if_neg fun h => Nat.ne_of_gt hs h.2.1]
    exact InTopState.topState_eq (.running (Nat.succ_ne_zero _) hr hf)
  · obtain rfl : x = .Running := hx.eq_running_iff.mpr ⟨hr, hf⟩
    obtain ⟨hpos, hle⟩ := hinv.bounds (hinv.runningRun hr).1
    refine ⟨_, ht, ?_⟩
    rw [if_pos ⟨rfl, hs, by omega⟩]
    exact InTopState.topState_eq (.finished (Nat.ne_of_gt (hpos.trans hle)) rfl rfl rfl)
  · obtain rfl : x = .Running := hx.eq_running_iff.mpr ⟨hr, hf⟩
    refine ⟨_, ht, ?_⟩
    rw [if_neg fun h => by omega]
    exact InTopState.topState_eq (.running (Nat.succ_ne_zero _) hr hf)

end

/-- Settles O44: the column of each command, from the row of R206 that the state is in. -/
theorem transitionTableOfTheTopLevelStates : Obligations.TransitionTableOfTheTopLevelStates := by
  intro s hinv
  obtain ⟨x, hx⟩ := hinv.exists_inTopState
  have hstay : topState s = some x := hx.topState_eq
  exact ⟨x, hstay, hx.after_start, ⟨_, rfl, rfl⟩, hx.after_pause, hx.after_resume, fun en => ⟨_, rfl, hstay⟩,
    ⟨_, rfl, hstay⟩, ⟨_, rfl, hstay⟩, hx.after_tick hinv⟩

end Sys2Proof.Machine
end
